-- ==== Sys2Proof/Word.lean ====
section
/-! DEFINITION. The word types of the engine and the value a 32-bit register keeps (00_scope.md R12). -/

namespace Sys2Proof

/-- A 32-bit register, buffer address, length or micro-op word (00_scope.md R10: ACC_W = ADDR_W = LEN_W = 32). -/
abbrev Word := BitVec 32

/-- One byte of the buffer space (20_memory.md R60). -/
abbrev Byte := BitVec 8

/-- `u32(v)` of 00_scope.md R12: `v mod 2^32`, the value a 32-bit register keeps. -/
abbrev u32 (v : Nat) : Word := BitVec.ofNat 32 v

end Sys2Proof
end

