-- ==== Sys2Proof/Config.lean ====
section
/-! DEFINITION. The engine's parameters (00_scope.md R10): the fixed ones as constants, the OPEN ones as plain data
that a state carries (`Build`, `Platform`), and the free values of the model. -/

namespace Sys2Proof

namespace Config

/-- MOD, the Adler modulus (00_scope.md R10). -/
abbrev modulus : Nat := 65521

/-- NMAX, the longest run of bytes accumulated without reduction (00_scope.md R10, R11; 90_conflicts.md C1). -/
abbrev nmax : Nat := 5552

/-- TB, the short-input threshold of the block-batched engine (00_scope.md R10). -/
abbrev batchedMin : Nat := 16

/-- A FREE VALUE: the byte that the k-th free draw gives. It stands for a byte that the spec leaves
open: a read that races with a Host write (20_memory.md R70, 93 I1) or a stale read on a non-coherent platform
(R75). It has no body, so no proof can see what it is (log 7, log 8). -/
opaque freeByte : Nat → Byte

/-- A FREE VALUE: the sum that the k-th free draw gives, before its reduction. It stands for S1 or S2 at the PACK of an
operation over a buffer that was written during the run, whose RESULT the rules do not give (20_memory.md R70, 93 I1).
It has no body (log 7). -/
opaque freeSum : Nat → Word

end Config

/-- What one Engine instance was built with (00_scope.md R10). OPEN parameters: claims are made for every value. -/
structure Build where
  /-- W: bytes per vector chunk and number of lanes. -/
  w : Nat
  /-- HAS_VECTOR: whether the vector tier is built. -/
  hasVector : Bool
  /-- REG_BASE: where the register block stands in the Host's space. The spec gives neither it nor a Host address a
  width; 32 bits is a DESIGN CHOICE (log 25). -/
  regBase : Word
deriving DecidableEq, Repr

/-- The build of 00_scope.md R10's defaults; REG_BASE has no default there, so 0 is a DESIGN CHOICE (log 2). -/
def Build.default : Build := { w := 16, hasVector := true, regBase := 0 }

/-- VMIN, the short-input threshold of the vector engine, equal to W (00_scope.md R10; 90_conflicts.md C6). -/
abbrev Build.vectorMin (b : Build) : Nat := b.w

/-- How the platform treats reads of a region of the buffer space. -/
inductive PortAnswer where
  /-- the read completes: `Admit` is true (20_memory.md R66). -/
  | answers
  /-- the read is refused: `Admit` is false (20_memory.md R66). -/
  | refused
  /-- the read is neither answered nor refused (93 I8). -/
  | silent
  /-- reads have side effects or are not idempotent: outside the spec (20_memory.md R65, 93 I2). -/
  | sideEffects
deriving DecidableEq, Repr

/-- `size` bytes from `lo` on, all treated alike. -/
structure Region where
  lo : Nat
  size : Nat
  kind : PortAnswer
deriving DecidableEq, Repr

/-- The platform the instances sit on (00_scope.md R10: `Admit`, `COHERENT`). An address in no region answers; any
predicate on the 2^32 addresses is some finite list of regions (log 3). -/
structure Platform where
  regions : List Region
  coherent : Bool
deriving DecidableEq, Repr

/-- COHERENT true is R10's default; that every address answers is a DESIGN CHOICE (log 3). -/
def Platform.default : Platform := { regions := [], coherent := true }

end Sys2Proof
end

