-- ==== Sys2Proof/Machine/State.lean ====
section
/-! DEFINITION. The state of the machine: everything 10_state.md R40 gives an Engine instance, the buffer space, the
platform, and what the outside world will do next. All of it is plain data. -/

namespace Sys2Proof.Machine

/-- Why the machine stops with a fault. All are the spec's model-only `Unreachable` (00_scope.md R16, 93 I7, I14): the
hardware has no code for them and no operation reaches one (44_sequencer.md R211, R212). Each is safe: it can only
make a true claim unprovable (log 11). -/
inductive Fault where
  /-- The Engine met a UOP word that `decodeUop` calls Invalid (30_encoding.md R86). Raised by the Engine's turn. Safe. -/
  | reservedWord
  /-- UPC is past the end of SCHED, so there is no micro-op to issue (10_state.md R36). Raised by the Engine's turn. Safe. -/
  | scheduleOverrun
  /-- A micro-op read a datapath or sequencer register that has no value (10_state.md R38, 93 I14). Raised by every
  micro-op but SEED, and by the Engine's turn while BUSY with no sequencer. It is the spec's own stop: R38 "a read of a register with no
  value as the fault `Unreachable`", I14 "fault on read", 44_sequencer.md R212 "the model fault `Unreachable` for an
  unwritten register". Safe. -/
  | noValue
  /-- An `assert` of PACK, VBEGIN, VCHUNK or VRECON failed (00_scope.md R16, 93 I7). Safe. -/
  | assertionFailed
  /-- VBEGIN, VCHUNK or VRECON on a build without the vector tier, whose registers it does not have (10_state.md R31,
  30_encoding.md R86). Safe. -/
  | absentTier
deriving DecidableEq, Repr

/-- Why the model gives no next state. -/
inductive Refusal where
  /-- An instruction that has no meaning in this model yet. Raised by no arm of exec at present. Safe. -/
  | notModelled (mnemonic : String)
  /-- A sub-word or misaligned Host access to the register block (10_state.md R21, 93 I9). Raised by a Host line. Safe. -/
  | badRegisterAccess
  /-- A Host access to an address in no instance's register block: another device's, whose effect is not this spec's
  (log 14). Raised by a Host line. Safe. -/
  | noRegisterBlock
  /-- A buffer read in a region whose reads have side effects (20_memory.md R65, 93 I2: "refuse"). Raised by SSTEP,
  RSTEP and VCHUNK. Safe. -/
  | sideEffectRead
deriving DecidableEq, Repr

/-- The three tiers, as EFF names them (10_state.md R33). -/
inductive Tier where
  | scalar
  | batched
  | vector
deriving DecidableEq, Repr

/-- The fields of STATUS (10_state.md R24). -/
structure Status where
  busy : Bool
  done : Bool
  err : Bool
  errcode : BitVec 4
deriving DecidableEq, Repr

/-- The accumulator pair (10_state.md R30). -/
structure Accum where
  s1 : Word
  s2 : Word
deriving DecidableEq, Repr

/-- The super-block registers and the lane file of the vector tier (10_state.md R31, R32). -/
structure Block where
  s1e : Word
  bs1 : Word
  vp : Word
  blen : Word
  lanes : List Word
deriving DecidableEq, Repr

/-- The sequencer while an operation runs (10_state.md R33). `raced` is the model's own: the addresses of the buffer
that an agent has written during this run. Their reads from then on are draws, and a run with one has a free RESULT
(20_memory.md R70, log 7). -/
structure Sequencer where
  base : Word
  n : Word
  ptr : Word
  eff : Tier
  sched : List Word
  upc : Nat
  raced : List Nat
deriving DecidableEq, Repr

/-- One Engine instance (10_state.md R40). ID, PARAM and CTRL.START have no storage: the register read gives them.
The three groups that R38 and R40 give "no value" outside an operation are Options: `none` IS the spec's "no value",
not a register that nothing has written yet (log 4). -/
structure Engine where
  build : Build
  /-- CTRL.ENGINE (R23). -/
  ctrlEngine : BitVec 2
  status : Status
  srcAddr : Word
  length : Word
  result : Word
  faultAddr : Word
  acc : Option Accum
  blk : Option Block
  seq : Option Sequencer
deriving DecidableEq, Repr

/-- The buffer space as a list of (address, byte), in the canonical form of `Memory.wf`. -/
abbrev Memory := List Host.Cell

/-- The size of a Host access. -/
inductive AccessWidth where
  | byte
  | half
  | word
deriving DecidableEq, Repr

/-- A line of what the Host will do (30_encoding.md R88), in the order the block receives it (20_memory.md R76). A Host
address of a register access is 32 bits wide, a DESIGN CHOICE (log 25). -/
inductive HostLine where
  /-- `WR`: a write of `data` to Host address `addr`. -/
  | wr (width : AccessWidth) (addr data : Word)
  /-- `RD`: a read of Host address `addr`. -/
  | rd (width : AccessWidth) (addr : Word)
  /-- `POLL STATUS until BUSY = 0` of the block whose STATUS register is at `addr`: an RD repeated until bit 0 is 0. -/
  | poll (addr : Word)
  /-- A write of one buffer byte, at the moment it becomes visible (20_memory.md R69, R70). -/
  | store (addr : Word) (b : Byte)
  /-- Cleaning `size` bytes from `lo` on from the Host's caches (20_memory.md R75). -/
  | clean (lo size : Nat)
deriving DecidableEq, Repr

/-- Who moves next: Host lines and Engine steps interleave in any order, one at a time (44_sequencer.md R206), and a
block reset may arrive at any time (70_reset_and_hazards.md R260). -/
inductive Turn where
  /-- the Host performs its next line. -/
  | host
  /-- the instance in focus takes an Engine step, if it has one. -/
  | engine
  /-- a block reset of the instance in focus. -/
  | reset
  /-- the focus passes to instance `k` of `others`; nothing of the hardware changes. -/
  | focus (k : Nat)
deriving DecidableEq, Repr

/-- The whole machine. `eng` is the instance in focus and `others` the remaining instances (60_exceptions.md R246).
`host`, `turns`, `lastRead`, `uncleaned` and `draws` are the model's own fields (INVENTORY.md, State). -/
structure State where
  eng : Engine
  others : List Engine
  mem : Memory
  platform : Platform
  /-- addresses of Host writes that a non-coherent port may not see yet (20_memory.md R75, log 8). -/
  uncleaned : List Nat
  /-- what the Host will do, in order (log 9). -/
  host : List HostLine
  /-- who moves next (log 9). -/
  turns : List Turn
  /-- how many free values have been drawn (log 7). -/
  draws : Nat
  /-- the data the last Host read was answered with (log 15). -/
  lastRead : Option Word
deriving DecidableEq, Repr

/-- STATUS after reset: 0x00000000 (10_state.md R40). -/
def Status.reset : Status := { busy := false, done := false, err := false, errcode := 0 }

/-- One instance right after a block reset (10_state.md R40, 70_reset_and_hazards.md R260). -/
def Engine.afterReset (b : Build) : Engine :=
  { build := b, ctrlEngine := 0, status := Status.reset, srcAddr := 0, length := 0, result := 0, faultAddr := 0,
    acc := none, blk := none, seq := none }

/-- The machine right after reset (70_reset_and_hazards.md R260, R261) on the default build and platform (log 1 to 3):
no operation, nothing listed in memory, nothing pending outside. -/
def State.reset : State :=
  { eng := Engine.afterReset Build.default, others := [], mem := [], platform := Platform.default, uncleaned := [],
    host := [], turns := [], draws := 0, lastRead := none }

end Sys2Proof.Machine
end

