-- ==== Sys2Proof/Machine/Flags.lean ====
section
/-! DEFINITION. STATUS (10_state.md R24): the only status bits of the engine (R37), what writes them, and the words
that the registers with fields read as. -/

namespace Sys2Proof.Machine

/-- What ends an operation or rejects a START (60_exceptions.md R230). -/
inductive ErrorCause where
  /-- a buffer read of a refused address (R231). -/
  | readFault (addr : Word)
  /-- VECTOR asked of a build without the vector tier (R233). -/
  | illegalEngine
  /-- a buffer that runs past the top of the address space (R234). -/
  | rangeError
deriving DecidableEq, Repr

/-- ERRCODE (60_exceptions.md R230). -/
def ErrorCause.code : ErrorCause → BitVec 4
  | .readFault _ => 0x1
  | .illegalEngine => 0x2
  | .rangeError => 0x3

/-- STATUS of an accepted START: DONE, ERR and ERRCODE cleared, BUSY set (44_sequencer.md R193). -/
def Status.started : Status := { busy := true, done := false, err := false, errcode := 0 }

/-- STATUS after PACK (40_lifecycle.md R105). -/
def Status.packed : Status := { busy := false, done := true, err := false, errcode := 0 }

/-- STATUS after an error, raised in a run or at START (60_exceptions.md R236, R237). -/
def Status.failed (c : ErrorCause) : Status := { busy := false, done := false, err := true, errcode := c.code }

/-- The word STATUS reads as (10_state.md R24); reserved bits read 0. -/
def Status.toWord (t : Status) : Word :=
  0#24 ++ (t.errcode ++ (0#1 ++ (BitVec.ofBool t.err ++ (BitVec.ofBool t.done ++ BitVec.ofBool t.busy))))

/-- The word CTRL reads as (10_state.md R23): START and the reserved bits read 0. -/
def ctrlWord (engine : BitVec 2) : Word := 0#29 ++ (engine ++ 0#1)

/-- The word PARAM reads as (10_state.md R29). -/
def paramWord (b : Build) : Word := 0#15 ++ (BitVec.ofBool b.hasVector ++ BitVec.ofNat 16 b.w)

/-- The word ID reads as (10_state.md R22): the constant 0x41443332, ASCII "AD32". -/
def idWord : Word := 0x41443332

end Sys2Proof.Machine
end

