-- ==== Sys2Proof/Machine/Memory.lean ====
section
/-! DEFINITION. The buffer space (20_memory.md R60): reads and writes of one byte, and the canonical form. -/

namespace Sys2Proof.Machine

/-- What an unlisted address reads as: 0x00, a DESIGN CHOICE (log 5). -/
def Memory.blank : Byte := 0

/-- The byte at address `a`. -/
def Memory.read : Memory → Nat → Byte
  | [], _ => Memory.blank
  | (k, v) :: m, a => if k = a then v else Memory.read m a

/-- The memory with byte `b` at address `a`; an entry equal to what an unlisted address reads as is removed. -/
def Memory.write : Memory → Nat → Byte → Memory
  | [], a, b => if b = Memory.blank then [] else [(a, b)]
  | (k, v) :: m, a, b =>
    if a < k then (if b = Memory.blank then (k, v) :: m else (a, b) :: (k, v) :: m)
    else if a = k then (if b = Memory.blank then m else (a, b) :: m)
    else (k, v) :: Memory.write m a b

/-- The canonical form from address `lo` on: addresses strictly rise, lie in the 2^32-byte space, and no entry equals
what an unlisted address reads as. -/
def Memory.wfFrom : Nat → Memory → Bool
  | _, [] => true
  | lo, (k, v) :: m => decide (lo ≤ k) && decide (k < 2 ^ 32) && decide (v ≠ Memory.blank) && Memory.wfFrom (k + 1) m

/-- The canonical form of memory. -/
def Memory.wf (m : Memory) : Bool := Memory.wfFrom 0 m

/-- The address of byte `i` of a buffer at `base` (20_memory.md R61). DESIGN CHOICE: past 0xFFFFFFFF it goes on at 0, which
the buffer of no accepted operation does (60_exceptions.md R234, log 27). -/
def byteAddr (base : Word) (i : Nat) : Word := base + u32 i

/-- The bytes d[0..n-1] of the buffer at `base`, in sequence order (20_memory.md R61). -/
def Memory.bytes (m : Memory) (base : Word) (n : Nat) : List Byte :=
  (List.range n).map fun i => m.read (byteAddr base i).toNat

end Sys2Proof.Machine
end

