-- ==== Sys2Proof/Machine/Operands.lean ====
section
/-! DEFINITION. What the micro-ops make of their implicit operands (30_encoding.md R83): bytes zero-extended, chunks
of W bytes, lane weights; and the arithmetic of each micro-op on them (41_scalar.md R123). -/

namespace Sys2Proof.Machine

/-- SSTEP's new pair (41_scalar.md R120): exact sums, both reduced, s2 from the NEW s1. -/
def Accum.stepReduced (a : Accum) (b : Byte) : Accum :=
  let s1 := (a.s1.toNat + b.toNat) % Config.modulus
  { s1 := u32 s1, s2 := u32 ((a.s2.toNat + s1) % Config.modulus) }

/-- RSTEP's new pair (42_batched.md R140): 32-bit adds, no reduction, s2 from the NEW s1. -/
def Accum.stepRaw (a : Accum) (b : Byte) : Accum :=
  let s1 := u32 (a.s1.toNat + b.toNat)
  { s1 := s1, s2 := u32 (a.s2.toNat + s1.toNat) }

/-- REDUCE's new pair (42_batched.md R142). -/
def Accum.reduced (a : Accum) : Accum :=
  { s1 := u32 (a.s1.toNat % Config.modulus), s2 := u32 (a.s2.toNat % Config.modulus) }

/-- The assertion `S1 < MOD and S2 < MOD` (40_lifecycle.md R105, 43_vector.md R161). -/
def Accum.isReduced (a : Accum) : Bool := decide (a.s1.toNat < Config.modulus) && decide (a.s2.toNat < Config.modulus)

/-- RESULT's value `{S2[15:0], S1[15:0]}` (40_lifecycle.md R105). -/
def Accum.packed (a : Accum) : Word := a.s2.extractLsb' 0 16 ++ a.s1.extractLsb' 0 16

/-- The lane weights `W − k`, 0 ≤ k < W (30_encoding.md R83, 43_vector.md R164). -/
def laneWeights (w : Nat) : List Nat := (List.range w).map fun k => w - k

/-- `Σ c[k]` over the bytes of a chunk. -/
def chunkSum (bytes : List Byte) : Nat := (bytes.map BitVec.toNat).sum

/-- The super-block that VBEGIN opens on a build with `w` lanes (43_vector.md R161). -/
def Block.opened (w : Nat) (s1 : Word) : Block :=
  { s1e := s1, bs1 := 0, vp := 0, blen := 0, lanes := List.replicate w 0 }

/-- The super-block after one more chunk (43_vector.md R163): VP takes BS1 as it stood BEFORE the chunk, lane k takes
byte k. -/
def Block.addChunk (v : Block) (w : Nat) (bytes : List Byte) : Block :=
  { s1e := v.s1e
    bs1 := u32 (v.bs1.toNat + chunkSum bytes)
    vp := u32 (v.vp.toNat + v.bs1.toNat)
    blen := u32 (v.blen.toNat + w)
    lanes := List.zipWith (fun l c => u32 (l.toNat + c.toNat)) v.lanes bytes }

/-- WS, the positional sum `Σ (W − k)·LANE[k]` (43_vector.md R165; the source's block_s2, R167). -/
def Block.weighted (v : Block) (w : Nat) : Nat :=
  (List.zipWith (fun c (l : Word) => c * l.toNat) (laneWeights w) v.lanes).sum

/-- T, the exact unreduced s2 of VRECON (43_vector.md R165, R168; 90_conflicts.md C2). -/
def Block.total (v : Block) (w : Nat) (s2 : Word) : Nat :=
  s2.toNat + v.blen.toNat * v.s1e.toNat + w * v.vp.toNat + v.weighted w

/-- VRECON's new pair (43_vector.md R165, R166). -/
def Block.reconciled (v : Block) (w : Nat) (s2 : Word) : Accum :=
  { s1 := u32 ((v.s1e.toNat + v.bs1.toNat) % Config.modulus), s2 := u32 (v.total w s2 % Config.modulus) }

end Sys2Proof.Machine
end

