-- ==== Sys2Proof/Syntax.lean ====
section
/-! DEFINITION. The instructions: the eight micro-ops (30_encoding.md R84) and the four starting commands (R87). -/

namespace Sys2Proof

/-- One constructor per row of the opcode table. A micro-op has no operand field (30_encoding.md R81). A command
carries the 29 bits X of its word, which the block ignores (R82): they are kept so that no bit of a word is lost. -/
inductive Instr where
  | seed
  | sstep
  | rstep
  | reduce
  | vbegin
  | vchunk
  | vrecon
  | pack
  | startScalar (x : BitVec 29)
  | startBatched (x : BitVec 29)
  | startVector (x : BitVec 29)
  | startAuto (x : BitVec 29)
deriving DecidableEq, Repr

/-- Whether the instruction is carried by the CMD format, as the data of a Host write to CTRL (30_encoding.md R80). -/
def Instr.isCommand : Instr → Bool
  | .seed | .sstep | .rstep | .reduce | .vbegin | .vchunk | .vrecon | .pack => false
  | .startScalar _ | .startBatched _ | .startVector _ | .startAuto _ => true

/-- Whether the micro-op belongs to the vector tier (43_vector.md). -/
def Instr.isVector : Instr → Bool
  | .vbegin | .vchunk | .vrecon => true
  | .seed | .sstep | .rstep | .reduce | .pack => false
  | .startScalar _ | .startBatched _ | .startVector _ | .startAuto _ => false

end Sys2Proof
end

