-- ==== Sys2Proof/Decode.lean ====
section
/-! DEFINITION. The decoder (30_encoding.md R85, R87) and, after it, the encoder. -/

namespace Sys2Proof

/-- Why a word is no instruction. -/
inductive Reject where
  /-- a UOP word whose field Z is not zero (30_encoding.md R86). -/
  | nonzeroZ
  /-- a UOP word whose OPC is 0x00 or 0x09 to 0xFF (30_encoding.md R86). -/
  | reservedOpc
  /-- a CMD word with START = 0: the register write SETENG, no command (30_encoding.md R87). -/
  | noStart
deriving DecidableEq, Repr

/-- The field OPC, bits [31:24] of a UOP word (30_encoding.md R81). -/
def opcOf (w : Word) : BitVec 8 := w.extractLsb' 24 8

/-- The field Z, bits [23:0] of a UOP word (30_encoding.md R81). -/
def zOf (w : Word) : BitVec 24 := w.extractLsb' 0 24

/-- The field START, bit [0] of a CMD word (30_encoding.md R82). -/
def startOf (w : Word) : Bool := w.getLsbD 0

/-- The field ENGINE, bits [2:1] of a CMD word (30_encoding.md R82). -/
def engineOf (w : Word) : BitVec 2 := w.extractLsb' 1 2

/-- The field X, bits [31:3] of a CMD word (30_encoding.md R82). -/
def xOf (w : Word) : BitVec 29 := w.extractLsb' 3 29

/-- `decodeUop` of 30_encoding.md R85, total on 32-bit words; R85's `Invalid` says why. -/
def decodeUop (w : Word) : Except Reject Instr :=
  if zOf w ≠ 0 then .error .nonzeroZ
  else
    match (opcOf w).toNat with
    | 0x01 => .ok .seed
    | 0x02 => .ok .sstep
    | 0x03 => .ok .rstep
    | 0x04 => .ok .reduce
    | 0x05 => .ok .vbegin
    | 0x06 => .ok .vchunk
    | 0x07 => .ok .vrecon
    | 0x08 => .ok .pack
    | _ => .error .reservedOpc

/-- The command a CMD word starts (30_encoding.md R87: only bits [2:0] take part in the match). -/
def decodeCmd (w : Word) : Except Reject Instr :=
  if startOf w then
    match (engineOf w).toNat with
    | 0 => .ok (.startScalar (xOf w))
    | 1 => .ok (.startBatched (xOf w))
    | 2 => .ok (.startVector (xOf w))
    | _ => .ok (.startAuto (xOf w))
  else .error .noStart

/-- The opcode table read as ONE list of words: every UOP row has bit 0 clear and every CMD row has it set, so bit 0
says which of the two formats a table word is in (log 17). The machine itself never needs this: its sequencer carries
UOP words only, its CTRL writes CMD words only (30_encoding.md R80). -/
def decodeWord (w : Word) : Except Reject Instr := if startOf w then decodeCmd w else decodeUop w

/-- The instruction read from an instruction of the opcode table whose bits are `w`; every instruction is one 32-bit
word (30_encoding.md R80). -/
def decodeTableWord (nbits w : Nat) : Option Instr :=
  if nbits ≤ 32 ∧ w < 2 ^ 32 then (decodeWord (BitVec.ofNat 32 w)).toOption else none

/-- A UOP word `{OPC, 24'b0}` (30_encoding.md R84). -/
def uopWord (opc : BitVec 8) : Word := opc ++ 0#24

/-- A CMD word `{X, ENGINE, START = 1}` (30_encoding.md R82). -/
def cmdWord (x : BitVec 29) (engine : BitVec 2) : Word := x ++ (engine ++ 1#1)

/-- The word of an instruction (30_encoding.md R84, R87). -/
def encode : Instr → Word
  | .seed => uopWord 0x01
  | .sstep => uopWord 0x02
  | .rstep => uopWord 0x03
  | .reduce => uopWord 0x04
  | .vbegin => uopWord 0x05
  | .vchunk => uopWord 0x06
  | .vrecon => uopWord 0x07
  | .pack => uopWord 0x08
  | .startScalar x => cmdWord x 0b00
  | .startBatched x => cmdWord x 0b01
  | .startVector x => cmdWord x 0b10
  | .startAuto x => cmdWord x 0b11

end Sys2Proof
end

