-- ==== Sys2Proof/Machine/Schedule.lean ====
section
/-! DEFINITION. Selection of the effective engine and the schedules (44_sequencer.md R197, R200 to R204). -/

namespace Sys2Proof.Machine

/-- `select(ENGINE, n)` (44_sequencer.md R197). -/
def selectTier (b : Build) (engine : BitVec 2) (n : Nat) : Tier :=
  match engine.toNat with
  | 0 => .scalar
  | 1 => .batched
  | 2 => .vector
  | _ =>
    if b.hasVector ∧ b.vectorMin ≤ n then .vector
    else if Config.batchedMin ≤ n then .batched
    else .scalar

/-- `segments(n)`: full NMAX segments, then the rest (44_sequencer.md R200, R202). -/
def segments (n : Nat) : List Nat :=
  List.replicate (n / Config.nmax) Config.nmax ++ (if n % Config.nmax > 0 then [n % Config.nmax] else [])

/-- The byte-serial schedule (44_sequencer.md R200). -/
def scalarOps (n : Nat) : List Instr := .seed :: (List.replicate n .sstep ++ [.pack])

/-- One batched segment of m bytes (44_sequencer.md R202, 42_batched.md R143). -/
def batchedSegment (m : Nat) : List Instr := List.replicate m .rstep ++ [.reduce]

/-- `vseg(m)`: one vector segment of m bytes on a build of width w (44_sequencer.md R200, 43_vector.md R170). -/
def vectorSegment (w m : Nat) : List Instr :=
  if w ≤ m then .vbegin :: (List.replicate (m / w) .vchunk ++ .vrecon :: List.replicate (m % w) .sstep)
  else List.replicate m .sstep

/-- The micro-ops of an operation, in order (44_sequencer.md R200, R203, R204). -/
def microOps (b : Build) : Tier → Nat → List Instr
  | .scalar, n => scalarOps n
  | .batched, n =>
    if n < Config.batchedMin then scalarOps n
    else .seed :: ((segments n).flatMap batchedSegment ++ [.pack])
  | .vector, n =>
    if n < b.vectorMin then scalarOps n
    else .seed :: ((segments n).flatMap (vectorSegment b.w) ++ [.pack])

/-- `schedule(EFF, n)`, a list of micro-op words (44_sequencer.md R200). -/
def schedule (b : Build) (t : Tier) (n : Nat) : List Word := (microOps b t n).map encode

/-- How many buffer bytes a micro-op consumes (44_sequencer.md R201). -/
def bytesTaken (w : Nat) : Instr → Nat
  | .sstep | .rstep => 1
  | .vchunk => w
  | .seed | .reduce | .vbegin | .vrecon | .pack => 0
  | .startScalar _ | .startBatched _ | .startVector _ | .startAuto _ => 0

end Sys2Proof.Machine
end

