-- ==== Sys2Proof/Machine/Ops.lean ====
section
/-! DEFINITION. The named operations the meanings share: the memory port, the reads of registers that may hold no
value, assertions, the advance of UPC and PTR, error termination, rejection and START, and the Host's side. -/

namespace Sys2Proof

/-- Whether a region holds address `a`. -/
def Region.contains (r : Region) (a : Nat) : Bool := decide (r.lo ≤ a) && decide (a < r.lo + r.size)

/-- How the platform treats a read of `a`: as the first region that holds it says; outside every region it answers. -/
def Platform.answer (p : Platform) (a : Word) : PortAnswer :=
  match p.regions.find? fun r => r.contains a.toNat with
  | some r => r.kind
  | none => .answers

/-- `Admit(a)` of 20_memory.md R66: a read of `a` completes. -/
def Platform.admits (p : Platform) (a : Word) : Bool := decide (p.answer a = .answers)

end Sys2Proof

namespace Sys2Proof.Machine

/-- What a step or a meaning answers. -/
abbrev Result := Host.Outcome State Fault Refusal

/-! ### The memory port -/

/-- Whether a read of `a` by the instance in focus is a draw: the byte was written during the run (20_memory.md R70),
or a non-coherent port may not see the Host's last write to it (R75). -/
def State.isDraw (s : State) (a : Word) : Bool :=
  (!s.platform.coherent && s.uncleaned.contains a.toNat) ||
    match s.eng.seq with
    | some q => q.raced.contains a.toNat
    | none => false

/-- What the memory port brings back. `draws` is the counter of free values after the access. -/
inductive Reply (α : Type) where
  | got (v : α) (draws : Nat)
  | refused (addr : Word)
  | silent
  | sideEffects

/-- The byte a completed read of `a` brings, with `d` free values drawn before it. -/
def State.readValue (s : State) (a : Word) (d : Nat) : Byte :=
  if s.isDraw a then Config.freeByte d else s.mem.read a.toNat

/-- The counter of free values after a completed read of `a`. -/
def State.drawsAfter (s : State) (a : Word) (d : Nat) : Nat := if s.isDraw a then d + 1 else d

/-- `MemRead(a, 1)` (00_scope.md R15, 20_memory.md R62, R66), with `d` free values drawn before it. -/
def State.memRead (s : State) (a : Word) (d : Nat) : Reply Byte :=
  match s.platform.answer a with
  | .answers => .got (s.readValue a d) (s.drawsAfter a d)
  | .refused => .refused a
  | .silent => .silent
  | .sideEffects => .sideEffects

/-- `MemRead(a, n)`: n reads of one byte in ascending order (00_scope.md R15, 20_memory.md R62); the first address
that does not answer decides (60_exceptions.md R240). DESIGN CHOICE: R15 gives no address past 0xFFFFFFFF, and a list of
reads that runs past it goes on at 0, which no schedule does (log 27). -/
def State.memReads (s : State) : Nat → Word → Nat → Reply (List Byte)
  | 0, _, d => .got [] d
  | n + 1, a, d =>
    match s.memRead a d with
    | .got b d1 =>
      match s.memReads n (a + 1) d1 with
      | .got bs d2 => .got (b :: bs) d2
      | .refused r => .refused r
      | .silent => .silent
      | .sideEffects => .sideEffects
    | .refused r => .refused r
    | .silent => .silent
    | .sideEffects => .sideEffects

/-! ### Ending an operation -/

/-- The datapath and the sequencer go back to "no value" (10_state.md R38; 40_lifecycle.md R105, 60_exceptions.md
R236). -/
def Engine.discard (e : Engine) : Engine := { e with acc := none, blk := none, seq := none }

/-- FAULT_ADDR after an error: only a ReadFault writes it (10_state.md R28). -/
def ErrorCause.faultAddr (old : Word) : ErrorCause → Word
  | .readFault a => a
  | .illegalEngine => old
  | .rangeError => old

/-- Termination with an error raised in a run (60_exceptions.md R236). RESULT keeps its value. -/
def Engine.terminate (e : Engine) (c : ErrorCause) : Engine :=
  { e.discard with status := Status.failed c, faultAddr := c.faultAddr e.faultAddr }

/-- Rejection at START (60_exceptions.md R237). -/
def Engine.reject (e : Engine) (c : ErrorCause) : Engine := { e with status := Status.failed c }

/-- `raise E`: the operation of the instance in focus ends with error `c`; the raising micro-op has no other effect
(00_scope.md R16). The spec has no handler, so nothing is saved and there is no return (60_exceptions.md R241). -/
def State.raise (s : State) (c : ErrorCause) : State := { s with eng := s.eng.terminate c }

/-! ### What an operation over a raced buffer leaves -/

/-- Whether an agent has written a byte of the running operation's buffer during the run, be it read already or not. -/
def Engine.isRaced (e : Engine) : Bool :=
  match e.seq with
  | some q => !q.raced.isEmpty
  | none => false

/-- A free pair of reduced sums, with `d` free values drawn before it. -/
def Accum.free (d : Nat) : Accum := Accum.reduced { s1 := Config.freeSum d, s2 := Config.freeSum (d + 1) }

/-- The pair that PACK packs: S1 and S2, or after a racing write a free reduced pair, because any read of the byte
written, an earlier one too, may have brought any byte (20_memory.md R70, 93 I1: RESULT is then unconstrained but for
both halves below MOD; log 7). -/
def State.finalPair (s : State) (a : Accum) : Accum := if s.eng.isRaced then Accum.free s.draws else a

/-- The counter of free values after PACK. -/
def State.drawsAfterPack (s : State) : Nat := if s.eng.isRaced then s.draws + 2 else s.draws

/-! ### What a micro-op reads and asserts -/

/-- Read S1 and S2; a register with no value faults (10_state.md R38, 93 I14). -/
def withAccum (s : State) (k : Accum → Result) : Result :=
  match s.eng.acc with
  | some a => k a
  | none => .fault .noValue

/-- Read the super-block registers and the lanes; a register with no value faults (10_state.md R38, 93 I14). -/
def withBlock (s : State) (k : Block → Result) : Result :=
  match s.eng.blk with
  | some v => k v
  | none => .fault .noValue

/-- Read the sequencer registers (PTR, or SCHED and UPC); one with no value faults: 93 I14 says so of "any datapath or
sequencer register", and 10_state.md R40 lists which have none. -/
def withSequencer (s : State) (k : Sequencer → Result) : Result :=
  match s.eng.seq with
  | some q => k q
  | none => .fault .noValue

/-- The registers of the vector tier exist only on a build that has it (10_state.md R31, R32). -/
def withVectorTier (s : State) (r : Result) : Result := if s.eng.build.hasVector then r else .fault .absentTier

/-- `assert P` (00_scope.md R16, 93 I7). -/
def asserting (p : Bool) (r : Result) : Result := if p then r else .fault .assertionFailed

/-- Go on with what the memory port brought: a refused address raises ReadFault (60_exceptions.md R231); a silent one
leaves everything as it is, so the operation stays BUSY (93 I8); a region with read side effects is refused (93 I2). -/
def withReply {α : Type} (s : State) (r : Reply α) (k : α → State → Result) : Result :=
  match r with
  | .got v d => k v { s with draws := d }
  | .refused a => .next (s.raise (.readFault a))
  | .silent => .next s
  | .sideEffects => .refused .sideEffectRead

/-! ### Completing a micro-op -/

/-- PTR moves on by the bytes consumed (44_sequencer.md R194); PTR is 32 bits wide (10_state.md R33, log 6). -/
def Sequencer.consume (q : Sequencer) (k : Nat) : Sequencer := { q with ptr := q.ptr + u32 k }

/-- UPC moves on by one (44_sequencer.md R206). -/
def Sequencer.advance (q : Sequencer) : Sequencer := { q with upc := q.upc + 1 }

/-- The micro-op is done: the instance in focus becomes `e` with UPC moved on (44_sequencer.md R206). -/
def State.complete (s : State) (e : Engine) : State := { s with eng := { e with seq := e.seq.map Sequencer.advance } }

/-! ### START and the registers -/

/-- The sequencer that an accepted START sets up (44_sequencer.md R193, R194). -/
def Engine.newSequencer (e : Engine) : Sequencer :=
  let t := selectTier e.build e.ctrlEngine e.length.toNat
  { base := e.srcAddr, n := e.length, ptr := e.srcAddr, eff := t, sched := schedule e.build t e.length.toNat, upc := 0,
    raced := [] }

/-- An accepted START (44_sequencer.md R193). -/
def Engine.accept (e : Engine) : Engine := { e with status := Status.started, seq := some e.newSequencer }

/-- What START does with ENGINE already stored: the checks in the order of 60_exceptions.md R239, then acceptance
(44_sequencer.md R193). -/
def Engine.start (e : Engine) : Engine :=
  if e.ctrlEngine = 0b10 ∧ e.build.hasVector = false then e.reject .illegalEngine
  else if 0 < e.length.toNat ∧ 2 ^ 32 < e.srcAddr.toNat + e.length.toNat then e.reject .rangeError
  else e.accept

/-- A CTRL write with START = 1 and the given ENGINE: ignored while BUSY (10_state.md R23, 44_sequencer.md R196), else
it stores ENGINE and starts (R193). -/
def State.startCommand (s : State) (engine : BitVec 2) : State :=
  if s.eng.status.busy then s else { s with eng := Engine.start { s.eng with ctrlEngine := engine } }

/-- A CTRL write with START = 0, the register write SETENG (30_encoding.md R87): ignored while BUSY. -/
def State.setEngine (s : State) (engine : BitVec 2) : State :=
  if s.eng.status.busy then s else { s with eng := { s.eng with ctrlEngine := engine } }

/-- What the register at a word-aligned offset reads as (10_state.md R20 to R29); reserved offsets read 0. -/
def Engine.readReg (e : Engine) (off : Nat) : Word :=
  match off with
  | 0x00 => idWord
  | 0x04 => ctrlWord e.ctrlEngine
  | 0x08 => e.status.toWord
  | 0x0C => e.srcAddr
  | 0x10 => e.length
  | 0x14 => e.result
  | 0x18 => e.faultAddr
  | 0x1C => paramWord e.build
  | _ => 0

/-- A write to a register other than CTRL (10_state.md R20, R21): SRC_ADDR and LENGTH are stored, also while BUSY
(70_reset_and_hazards.md R273); read-only and reserved offsets change nothing. -/
def Engine.writeReg (e : Engine) (off : Nat) (data : Word) : Engine :=
  match off with
  | 0x0C => { e with srcAddr := data }
  | 0x10 => { e with length := data }
  | _ => e

/-- The block's answer to a reset (70_reset_and_hazards.md R260): every register at its reset value, a running
operation abandoned. -/
def Engine.blockReset (e : Engine) : Engine := Engine.afterReset e.build

/-! ### Which instance -/

/-- The offset of a Host address from REG_BASE (10_state.md R20). DESIGN CHOICE: both are 32 bits wide and the offset is
taken modulo 2^32, so a block placed across 0xFFFFFFFF goes on at 0 (log 25). -/
def Engine.offsetOf (e : Engine) (addr : Word) : Nat := (addr - e.build.regBase).toNat

/-- Whether a Host address lies in the instance's 256-byte register block (10_state.md R20). -/
def Engine.holds (e : Engine) (addr : Word) : Bool := decide (e.offsetOf addr < 256)

/-- The focus passes to instance `k` of the others; the instances themselves do not change. -/
def State.focusOn (s : State) (k : Nat) : State :=
  match s.others[k]? with
  | some e => { s with eng := e, others := s.others.set k s.eng }
  | none => s

/-- The focus passes to the instance whose register block holds `addr`; none if there is no such instance. DESIGN
CHOICE: where several blocks hold `addr`, the instance in focus answers, else the first of `others` (log 26). -/
def State.attend (s : State) (addr : Word) : Option State :=
  if s.eng.holds addr then some s
  else
    match s.others.findIdx? fun e => e.holds addr with
    | some k => some (s.focusOn k)
    | none => none

/-! ### Host writes to the buffer -/

/-- `a` put into a list of addresses, once. -/
def addAddr (a : Nat) (l : List Nat) : List Nat := if l.contains a then l else a :: l

/-- Whether `a` is an address of the running operation's buffer `[BASE, BASE+N)`. -/
def Sequencer.covers (q : Sequencer) (a : Nat) : Bool :=
  decide (q.base.toNat ≤ a) && decide (a < q.base.toNat + q.n.toNat)

/-- A byte at `a` is being written: if the instance is BUSY over a buffer that holds it, its reads of that byte become
draws and its RESULT is no longer given (20_memory.md R70). -/
def Engine.noteWrite (e : Engine) (a : Nat) : Engine :=
  match e.seq with
  | some q => if q.covers a then { e with seq := some { q with raced := addAddr a q.raced } } else e
  | none => e

/-- A Host write of one buffer byte (20_memory.md R69, R70, R75). -/
def State.hostStore (s : State) (addr : Word) (b : Byte) : State :=
  { s with
    mem := s.mem.write addr.toNat b
    uncleaned := if s.platform.coherent then s.uncleaned else addAddr addr.toNat s.uncleaned
    eng := s.eng.noteWrite addr.toNat
    others := s.others.map fun e => e.noteWrite addr.toNat }

/-- Whether address `a` is one of the `size` bytes from `lo` on. -/
def inRange (lo size a : Nat) : Bool := decide (lo ≤ a) && decide (a < lo + size)

/-- The instance after the Host's earlier writes to the addresses `l` reach memory. -/
def Engine.noteWrites (e : Engine) (l : List Nat) : Engine := l.foldl Engine.noteWrite e

/-- The Host cleans `size` bytes from `lo` on: its writes to them reach memory now (20_memory.md R75). For a running
operation over such a byte that is a write during the run (R70, log 8). -/
def State.hostClean (s : State) (lo size : Nat) : State :=
  let cleaned := s.uncleaned.filter (inRange lo size)
  { s with
    uncleaned := s.uncleaned.filter fun a => !inRange lo size a
    eng := s.eng.noteWrites cleaned
    others := s.others.map fun e => e.noteWrites cleaned }

end Sys2Proof.Machine
end

