-- ==== Sys2Proof/Machine/Batched.lean ====
section
/-! DEFINITION. The family of 42_batched.md: RSTEP and REDUCE. -/

namespace Sys2Proof.Machine

/-- RSTEP (42_batched.md R140): fold the byte at PTR into the pair without reduction. -/
def execRstep (s : State) : Result :=
  withAccum s fun a =>
    withSequencer s fun q =>
      withReply s (s.memRead q.ptr s.draws) fun b s' =>
        .next (s'.complete { s'.eng with acc := some (a.stepRaw b), seq := some (q.consume 1) })

/-- REDUCE (42_batched.md R142): reduce both sums; no memory is read. -/
def execReduce (s : State) : Result :=
  withAccum s fun a => .next (s.complete { s.eng with acc := some a.reduced })

end Sys2Proof.Machine
end

