-- ==== Sys2Proof/Machine/Lifecycle.lean ====
section
/-! DEFINITION. The family of 40_lifecycle.md: SEED and PACK. -/

namespace Sys2Proof.Machine

/-- SEED (40_lifecycle.md R100): the accumulator pair becomes the seed; nothing is read. -/
def execSeed (s : State) : Result := .next (s.complete { s.eng with acc := some { s1 := 1, s2 := 0 } })

/-- PACK (40_lifecycle.md R105): RESULT is published whole and the operation ends with DONE; after a write into the
buffer during the run the pair packed is free (20_memory.md R70). -/
def execPack (s : State) : Result :=
  withAccum s fun a =>
    asserting a.isReduced
      (.next { s with
        draws := s.drawsAfterPack
        eng := { s.eng.discard with result := (s.finalPair a).packed, status := Status.packed } })

end Sys2Proof.Machine
end

