-- ==== Sys2Proof/Machine/Scalar.lean ====
section
/-! DEFINITION. The family of 41_scalar.md: SSTEP. -/

namespace Sys2Proof.Machine

/-- SSTEP (41_scalar.md R120): fold the byte at PTR into the pair, reducing both sums. -/
def execSstep (s : State) : Result :=
  withAccum s fun a =>
    withSequencer s fun q =>
      withReply s (s.memRead q.ptr s.draws) fun b s' =>
        .next (s'.complete { s'.eng with acc := some (a.stepReduced b), seq := some (q.consume 1) })

end Sys2Proof.Machine
end

