-- ==== Sys2Proof/Machine/Sequencer.lean ====
section
/-! DEFINITION. The family of 44_sequencer.md: the four starting commands. The bits X of the word are ignored
(30_encoding.md R82). -/

namespace Sys2Proof.Machine

/-- START.SCALAR (44_sequencer.md R193, R197 (a)). -/
def execStartScalar (_x : BitVec 29) (s : State) : Result := .next (s.startCommand 0b00)

/-- START.BATCHED (44_sequencer.md R193, R197 (b)). -/
def execStartBatched (_x : BitVec 29) (s : State) : Result := .next (s.startCommand 0b01)

/-- START.VECTOR (44_sequencer.md R193, R197 (c)). -/
def execStartVector (_x : BitVec 29) (s : State) : Result := .next (s.startCommand 0b10)

/-- START.AUTO (44_sequencer.md R193, R197 (d)). -/
def execStartAuto (_x : BitVec 29) (s : State) : Result := .next (s.startCommand 0b11)

end Sys2Proof.Machine
end

