-- ==== Sys2Proof/Machine/Vector.lean ====
section
/-! DEFINITION. The family of 43_vector.md: VBEGIN, VCHUNK and VRECON. -/

namespace Sys2Proof.Machine

/-- VBEGIN (43_vector.md R161): open a super-block at the present s1. -/
def execVbegin (s : State) : Result :=
  withVectorTier s <|
    withAccum s fun a =>
      asserting a.isReduced
        (.next (s.complete { s.eng with blk := some (Block.opened s.eng.build.w a.s1) }))

/-- VCHUNK (43_vector.md R163): the W bytes at PTR go into the lanes, entirely or not at all; the bytes are read, in
ascending order, before the assertion is made. -/
def execVchunk (s : State) : Result :=
  withVectorTier s <|
    withBlock s fun v =>
      withSequencer s fun q =>
        withReply s (s.memReads s.eng.build.w q.ptr s.draws) fun bytes s' =>
          asserting (decide (v.blen.toNat + s.eng.build.w ≤ Config.nmax))
            (.next (s'.complete
              { s'.eng with
                blk := some (v.addChunk s.eng.build.w bytes)
                seq := some (q.consume s.eng.build.w) }))

/-- The assertion of VRECON (43_vector.md R165): `BLEN ≤ NMAX and S1E < MOD and S2 < MOD`. -/
def Block.mayReconcile (v : Block) (s2 : Word) : Bool :=
  decide (v.blen.toNat ≤ Config.nmax) && decide (v.s1e.toNat < Config.modulus) && decide (s2.toNat < Config.modulus)

/-- VRECON (43_vector.md R165): reconcile the super-block into the pair; the super-block registers keep their values. -/
def execVrecon (s : State) : Result :=
  withVectorTier s <|
    withAccum s fun a =>
      withBlock s fun v =>
        asserting (v.mayReconcile a.s2)
          (.next (s.complete { s.eng with acc := some (v.reconciled s.eng.build.w a.s2) }))

end Sys2Proof.Machine
end

