-- ==== Sys2Proof/Machine/Dispatch.lean ====
section
/-! DEFINITION. One arm per instruction. -/

namespace Sys2Proof.Machine

/-- What an instruction does: `perform u` of 44_sequencer.md R206 together with the advance of UPC, or R193 for a
command. -/
def exec (i : Instr) (s : State) : Host.Outcome State Fault Refusal :=
  match i with
  | .seed => Sys2Proof.Machine.execSeed s
  | .sstep => Sys2Proof.Machine.execSstep s
  | .rstep => Sys2Proof.Machine.execRstep s
  | .reduce => Sys2Proof.Machine.execReduce s
  | .vbegin => Sys2Proof.Machine.execVbegin s
  | .vchunk => Sys2Proof.Machine.execVchunk s
  | .vrecon => Sys2Proof.Machine.execVrecon s
  | .pack => Sys2Proof.Machine.execPack s
  | .startScalar x => Sys2Proof.Machine.execStartScalar x s
  | .startBatched x => Sys2Proof.Machine.execStartBatched x s
  | .startVector x => Sys2Proof.Machine.execStartVector x s
  | .startAuto x => Sys2Proof.Machine.execStartAuto x s

end Sys2Proof.Machine
end

