-- ==== Sys2Proof/Machine/Turns.lean ====
section
/-! DEFINITION. What each agent's turn does: the Engine issues its next micro-op (44_sequencer.md R206), the Host
performs its next line (30_encoding.md R88, 20_memory.md R76), a reset arrives (70_reset_and_hazards.md R260). -/

namespace Sys2Proof.Machine

/-- One Engine step of the instance in focus (44_sequencer.md R206). While STATUS.BUSY = 0 the Engine has no step. -/
def State.engineTurn (s : State) : Result :=
  if s.eng.status.busy then
    withSequencer s fun q =>
      match q.sched[q.upc]? with
      | none => .fault .scheduleOverrun
      | some w =>
        match decodeUop w with
        | .ok i => exec i s
        | .error _ => .fault .reservedWord
  else .next s

/-- A Host write of `data` to CTRL (10_state.md R23): a starting command, or the register write SETENG. -/
def State.writeCtrl (s : State) (data : Word) : Result :=
  match decodeCmd data with
  | .ok i => exec i s
  | .error _ => .next (s.setEngine (engineOf data))

/-- A Host write of `data` to the register at offset `off` of the instance in focus (10_state.md R20, R21). -/
def State.writeAt (s : State) (off : Nat) (data : Word) : Result :=
  if off = 0x04 then s.writeCtrl data else .next { s with eng := s.eng.writeReg off data }

/-- A Host access reaches the instance whose block holds the address; it is a 32-bit access at an offset that is a
multiple of 4, any other is refused (10_state.md R21, 93 I9). -/
def State.access (s : State) (width : AccessWidth) (addr : Word) (k : Nat → State → Result) : Result :=
  match s.attend addr with
  | none => .refused .noRegisterBlock
  | some s1 =>
    if width = .word ∧ s1.eng.offsetOf addr % 4 = 0 then k (s1.eng.offsetOf addr) s1 else .refused .badRegisterAccess

/-- A Host read: no side effect on the block (10_state.md R21); the data goes to the Host (log 15). -/
def State.answerRead (s : State) (off : Nat) : State := { s with lastRead := some (s.eng.readReg off) }

/-- One line of the Host (30_encoding.md R88); `s` no longer holds the line. -/
def State.hostLine (s : State) (line : HostLine) : Result :=
  match line with
  | .wr width addr data => s.access width addr fun off s1 => s1.writeAt off data
  | .rd width addr => s.access width addr fun off s1 => .next (s1.answerRead off)
  | .poll addr =>
    s.access .word addr fun off s1 =>
      if (s1.eng.readReg off).getLsbD 0 then .next { s1.answerRead off with host := .poll addr :: s1.host }
      else .next (s1.answerRead off)
  | .store addr b => .next (s.hostStore addr b)
  | .clean lo size => .next (s.hostClean lo size)

/-- `CHECKSUM <engine>, <addr>, <len>` as the Host lines it stands for (30_encoding.md R89), for the block at `base`: the
POLL ends with BUSY = 0, and the two reads bring STATUS and RESULT. -/
def checksumLines (base : Word) (engine : BitVec 2) (addr len : Word) : List HostLine :=
  [.wr .word (base + 0x0C) addr, .wr .word (base + 0x10) len, .wr .word (base + 0x04) (cmdWord 0 engine),
    .poll (base + 0x08), .rd .word (base + 0x08), .rd .word (base + 0x14)]

/-- The Host's turn: its next line, if it has one. -/
def State.hostTurn (s : State) : Result :=
  match s.host with
  | [] => .next s
  | line :: rest => State.hostLine { s with host := rest } line

/-- A block reset of the instance in focus (70_reset_and_hazards.md R260). -/
def State.resetTurn (s : State) : State := { s with eng := s.eng.blockReset }

/-- The turn `t`; `s` no longer holds it. -/
def State.takeTurn (s : State) (t : Turn) : Result :=
  match t with
  | .host => s.hostTurn
  | .engine => s.engineTurn
  | .reset => .next s.resetTurn
  | .focus k => .next (s.focusOn k)

/-- Who moves when no turn is given (log 9): the Engine in focus while BUSY, then the Host, then another BUSY
instance; with none of them the machine is idle. -/
def State.defaultTurn (s : State) : Result :=
  if s.eng.status.busy then s.engineTurn
  else
    match s.host with
    | _ :: _ => s.hostTurn
    | [] =>
      match s.others.findIdx? fun e => e.status.busy with
      | some k => .next (s.focusOn k)
      | none => .next s

/-- The engine that issues UOP word `w` next (log 10): an operation in progress whose sequencer holds `w` at UPC. A
register that has no value because no operation runs gets the value that SEED or VBEGIN leaves there. -/
def Engine.withMicroOp (e : Engine) (w : Word) : Engine :=
  let q := e.seq.getD { e.newSequencer with sched := [] }
  let a := e.acc.getD { s1 := 1, s2 := 0 }
  { e with
    status := if e.status.busy then e.status else Status.started
    acc := some a
    blk := if e.build.hasVector then some (e.blk.getD (Block.opened e.build.w a.s1)) else e.blk
    seq := some { q with sched := q.sched.take q.upc ++ w :: q.sched.drop (q.upc + 1), upc := min q.upc q.sched.length } }

/-- A CMD word arrives as the data of the next Host write to CTRL; a UOP word is the next that the sequencer issues
(30_encoding.md R80, log 10). -/
def State.placeWord (s : State) (w : Word) : State :=
  if startOf w then
    { s with
      turns := .host :: s.turns
      host := .wr .word (s.eng.build.regBase + 4) w :: s.host }
  else { s with turns := .engine :: s.turns, eng := s.eng.withMicroOp w }

end Sys2Proof.Machine
end

