-- ==== Sys2Proof/Machine/Step.lean ====
section
/-! DEFINITION. The step: one move of one agent (44_sequencer.md R206: one at a time, in any order). -/

namespace Sys2Proof.Machine

/-- One step: the next turn of `turns` is taken, or the default one when none is given (log 9). -/
def step (s : State) : Host.Outcome State Fault Refusal :=
  match s.turns with
  | t :: rest => State.takeTurn { s with turns := rest } t
  | [] => s.defaultTurn

/-- `s` with the instruction whose bits are `w` placed so that the very next step runs it (log 10). Every instruction
is one 32-bit word (30_encoding.md R80), so no word has more than the `nbits` bits given. -/
def State.withFetchWord (s : State) (_nbits w : Nat) : State := s.placeWord (BitVec.ofNat 32 w)

end Sys2Proof.Machine
end

