-- ==== Sys2Proof/Machine/Contract.lean ====
section
/-! DEFINITION. The operation level (00_scope.md R9): the function the contract fixes, and its closed form. -/

namespace Sys2Proof.Machine

/-- One turn of the loop of 44_sequencer.md R190 on the exact pair (s1, s2). -/
def adlerStep (p : Nat × Nat) (d : Byte) : Nat × Nat :=
  ((p.1 + d.toNat) % Config.modulus, (p.2 + (p.1 + d.toNat) % Config.modulus) % Config.modulus)

/-- The pair of sums after the bytes `ds`, from the seed (1, 0) (44_sequencer.md R190). -/
def adlerSums (ds : List Byte) : Nat × Nat := ds.foldl adlerStep (1, 0)

/-- `(s2 << 16) | s1` on exact sums below 2^16 (40_lifecycle.md R105). -/
def packSums (s1 s2 : Nat) : Word := (u32 s2) <<< 16 ||| u32 s1

/-- `Adler32(d)` of 44_sequencer.md R190. -/
def adler32 (ds : List Byte) : Word := packSums (adlerSums ds).1 (adlerSums ds).2

/-- Σ d[i], an ordinary integer sum (00_scope.md R17). -/
def byteSum : List Byte → Nat
  | [] => 0
  | d :: ds => d.toNat + byteSum ds

/-- Σ (n − i)·d[i] over the n bytes of the list (41_scalar.md R122): byte d[i] has weight n − i. -/
def weightedSum : List Byte → Nat
  | [] => 0
  | d :: ds => (ds.length + 1) * d.toNat + weightedSum ds

end Sys2Proof.Machine
end

