-- ==== Sys2Proof/WellFormed.lean ====
section
/-! DEFINITION. What is checked of a build and of an instruction on a build. -/

namespace Sys2Proof

/-- A legal build: 1 ≤ W ≤ NMAX (00_scope.md R10). -/
def Build.legal (b : Build) : Bool := decide (1 ≤ b.w) && decide (b.w ≤ Config.nmax)

/-- An instruction that may be issued on a build: a vector micro-op needs the vector tier (30_encoding.md R86,
44_sequencer.md R204). A START.VECTOR may be written on every build (it is rejected: 60_exceptions.md R233). -/
def Instr.wellFormed (b : Build) (i : Instr) : Bool := !i.isVector || b.hasVector

end Sys2Proof
end

