-- ==== Sys2Proof/Safety.lean ====
section
/-! DEFINITION. What counts as a safe run, in the terms the claims use: the invariant of the machine and the premises
of an operation. -/

namespace Sys2Proof.Machine

/-! ### STATUS and RESULT -/

/-- The four combinations of (BUSY, DONE, ERR) that occur, with ERRCODE 0 when ERR = 0 and one of the three codes when
ERR = 1 (10_state.md R24, 60_exceptions.md R230). -/
def Status.legal (t : Status) : Bool :=
  match t.busy, t.done, t.err with
  | false, false, false => decide (t.errcode = 0)
  | true, false, false => decide (t.errcode = 0)
  | false, true, false => decide (t.errcode = 0)
  | false, false, true => decide (t.errcode = 1) || decide (t.errcode = 2) || decide (t.errcode = 3)
  | _, _, _ => false

/-- Both halves of a packed word are below MOD (40_lifecycle.md R105, 41_scalar.md R124). -/
def halvesReduced (r : Word) : Bool :=
  decide ((r.extractLsb' 16 16).toNat < Config.modulus) && decide ((r.extractLsb' 0 16).toNat < Config.modulus)

/-! ### What a schedule needs of the datapath (44_sequencer.md R211, R212) -/

/-- What is known of S1 and S2: nothing, that they have values, or that both are below MOD. -/
inductive AccumView where
  | nothing
  | present
  | reduced
deriving DecidableEq, Repr

/-- What is known of the datapath: of S1 and S2, and BLEN of the open super-block if there is one. -/
structure View where
  acc : AccumView
  blen : Option Nat
deriving DecidableEq, Repr

/-- What a micro-op leaves known, if what is known lets it run without a model fault; PACK and the commands leave
nothing to go on with. -/
def View.after (b : Build) (v : View) : Instr → Option View
  | .seed => some { v with acc := .reduced }
  | .sstep => if v.acc = .nothing then none else some { v with acc := .reduced }
  | .rstep => if v.acc = .nothing then none else some { v with acc := .present }
  | .reduce => if v.acc = .nothing then none else some { v with acc := .reduced }
  | .vbegin => if v.acc = .reduced ∧ b.hasVector = true then some { v with blen := some 0 } else none
  | .vchunk =>
    match v.blen with
    | some l => if l + b.w ≤ Config.nmax ∧ b.hasVector = true then some { v with blen := some (l + b.w) } else none
    | none => none
  | .vrecon => if v.acc = .reduced ∧ v.blen ≠ none ∧ b.hasVector = true then some v else none
  | .pack | .startScalar _ | .startBatched _ | .startVector _ | .startAuto _ => none

/-- Whether the micro-op words can be issued one after another from what is known, ending with the one PACK, without a
model fault. -/
def runnable (b : Build) : List Word → View → Bool
  | [], _ => false
  | w :: rest, v =>
    match decodeUop w with
    | .error _ => false
    | .ok .pack => rest.isEmpty && decide (v.acc = .reduced)
    | .ok i =>
      match v.after b i with
      | some v' => runnable b rest v'
      | none => false

/-- What is known holds of the datapath of `e`. -/
structure View.Describes (v : View) (e : Engine) : Prop where
  present : v.acc ≠ .nothing → ∃ a, e.acc = some a
  reduced : v.acc = .reduced → ∃ a, e.acc = some a ∧ a.isReduced = true
  block : ∀ l, v.blen = some l →
    ∃ k, e.blk = some k ∧ k.blen.toNat = l ∧ l ≤ Config.nmax ∧ k.s1e.toNat < Config.modulus ∧
      k.lanes.length = e.build.w

/-- The bytes that a list of micro-op words consumes (44_sequencer.md R201). -/
def bytesConsumed (w : Nat) (ws : List Word) : Nat :=
  (ws.map fun x =>
    match decodeUop x with
    | .ok i => bytesTaken w i
    | .error _ => 0).sum

/-! ### The invariant -/

/-- The sequencer of a running operation (10_state.md R33, R34). -/
structure Sequencer.Inv (b : Build) (q : Sequencer) : Prop where
  sched_eq : q.sched = schedule b q.eff q.n.toNat
  tier_built : q.eff = .vector → b.hasVector = true
  in_space : q.n = 0 ∨ q.base.toNat + q.n.toNat ≤ 2 ^ 32
  upc_lt : q.upc < q.sched.length
  ptr_eq : q.ptr = q.base + u32 (bytesConsumed b.w (q.sched.take q.upc))

/-- The invariant of one instance: a legal build, a legal STATUS, a packed RESULT, no datapath or sequencer value while
idle (10_state.md R38), and while BUSY a sequencer whose remaining schedule can run from the present datapath. -/
structure Engine.Inv (e : Engine) : Prop where
  build_legal : e.build.legal = true
  status_legal : e.status.legal = true
  result_reduced : halvesReduced e.result = true
  no_tier : e.build.hasVector = false → e.blk = none
  idle : e.status.busy = false → e.acc = none ∧ e.blk = none ∧ e.seq = none
  running : e.status.busy = true →
    ∃ q v, e.seq = some q ∧ q.Inv e.build ∧ View.Describes v e ∧ runnable e.build (q.sched.drop q.upc) v = true

/-- The invariant of the machine: canonical memory, and the invariant of every instance. -/
structure State.Inv (s : State) : Prop where
  mem_wf : s.mem.wf = true
  eng : s.eng.Inv
  others : ∀ e ∈ s.others, e.Inv

/-! ### Writes during a run -/

/-- The instance runs an operation whose buffer `[BASE, BASE+N)` holds address `a` (20_memory.md R70). -/
def Engine.RunsOver (e : Engine) (a : Nat) : Prop :=
  ∃ q, e.seq = some q ∧ q.base.toNat ≤ a ∧ a < q.base.toNat + q.n.toNat

/-- `e'` is the instance `e` after an agent has written the bytes at the addresses `written` (20_memory.md R70; log 7,
log 22): the addresses its run covers are marked, its RESULT is open if there is one, and nothing else changes. -/
structure Engine.RacedBy (e e' : Engine) (written : Nat → Prop) : Prop where
  untouched : (∀ a, written a → ¬ e.RunsOver a) → e' = e
  raced : ∀ q, e.seq = some q →
    ∃ r, e' = { e with seq := some { q with raced := r } } ∧ ∀ a, a ∈ r ↔ a ∈ q.raced ∨ (written a ∧ e.RunsOver a)
  result_open : ∀ a, written a → e.RunsOver a → e'.isRaced = true

/-! ### Premises of an operation -/

/-- Every read of the buffer of `n` bytes at `base` completes: `Admit` holds on it (20_memory.md R66). -/
def State.Readable (s : State) (base : Word) (n : Nat) : Prop :=
  ∀ i, i < n → s.platform.answer (byteAddr base i) = .answers

/-- Every Host write to the buffer is visible to the Engine (20_memory.md R69 (a), R75). -/
def State.Visible (s : State) (base : Word) (n : Nat) : Prop :=
  s.platform.coherent = true ∨ ∀ i, i < n → (byteAddr base i).toNat ∉ s.uncleaned

/-- Every read completes or is refused: the premise "reads complete" (44_sequencer.md R207, 70_reset_and_hazards.md
R281). -/
def State.ReadsComplete (s : State) : Prop :=
  ∀ a, s.platform.answer a = .answers ∨ s.platform.answer a = .refused

/-- The STATUS write of a START command `i` is accepted in `s`, giving `s1` (44_sequencer.md R193); nothing outside
interferes afterwards: no turn is given, so the Engine takes every step until the operation ends. -/
structure Accepted (i : Instr) (s s1 : State) : Prop where
  command : i.isCommand = true
  legal : s.eng.build.legal = true
  idle : s.eng.status.busy = false
  alone : s.turns = []
  started : exec i s = .next s1
  busy : s1.eng.status.busy = true

/-- The number of Engine steps of a successful operation, as R205 gives it (44_sequencer.md R205). -/
def vectorSegmentLength (w m : Nat) : Nat := if w ≤ m then 2 + m / w + m % w else m

/-- The schedule length of R205. -/
def scheduleLength (b : Build) : Tier → Nat → Nat
  | .scalar, n => n + 2
  | .batched, n => if n < 16 then n + 2 else n + 2 + (n + 5551) / 5552
  | .vector, n => if n < b.w then n + 2 else 2 + ((segments n).map (vectorSegmentLength b.w)).sum

end Sys2Proof.Machine
end

