-- ==== Sys2Proof/Certificates/Slice0/Obligations.lean ====
section
/-! DEFINITION. The statements for the provers. Each docstring names the rule of spec/ it formalises. -/

open Sys2Proof Sys2Proof.Machine

/-! ## Encoding -/

/-- 30_encoding.md R84 and R87, word for word: the twelve rows of the opcode table decode to their instructions. -/
def Obligations.SpecWordsDecode : Prop :=
  decodeUop 0x01000000 = .ok .seed ∧ decodeUop 0x02000000 = .ok .sstep ∧ decodeUop 0x03000000 = .ok .rstep ∧
  decodeUop 0x04000000 = .ok .reduce ∧ decodeUop 0x05000000 = .ok .vbegin ∧ decodeUop 0x06000000 = .ok .vchunk ∧
  decodeUop 0x07000000 = .ok .vrecon ∧ decodeUop 0x08000000 = .ok .pack ∧
  decodeCmd 0x00000001 = .ok (.startScalar 0) ∧ decodeCmd 0x00000003 = .ok (.startBatched 0) ∧
  decodeCmd 0x00000005 = .ok (.startVector 0) ∧ decodeCmd 0x00000007 = .ok (.startAuto 0) ∧
  decodeCmd 0xFFFFFFFB = .ok (.startBatched 0x1FFFFFFF)

/-- Decoder and encoder agree in both directions, for every word and every instruction with every value of the field X
(30_encoding.md R81, R82, R84, R87; the choice of channel by bit 0 is log 17, DEDUCED): each word of the table has one meaning, and no bit of it is lost. -/
def Obligations.EveryWordHasOneMeaning : Prop :=
  ∀ (w : Word) (i : Instr), decodeWord w = .ok i ↔ encode i = w

/-- 30_encoding.md R85: decoding a UOP word is total, a word with Z ≠ 0 is Invalid whatever its OPC, a word with Z = 0
is decoded by its OPC alone, and exactly the eight words of R84 are micro-ops (the match is exact). -/
def Obligations.UopDecodingIsTotalAndExact : Prop :=
  (∀ w : Word, w.extractLsb' 0 24 ≠ 0 → decodeUop w = .error .nonzeroZ) ∧
  (∀ w : Word, w.extractLsb' 0 24 = 0 →
    decodeUop w =
      if w.extractLsb' 24 8 = 0x01 then .ok .seed
      else if w.extractLsb' 24 8 = 0x02 then .ok .sstep
      else if w.extractLsb' 24 8 = 0x03 then .ok .rstep
      else if w.extractLsb' 24 8 = 0x04 then .ok .reduce
      else if w.extractLsb' 24 8 = 0x05 then .ok .vbegin
      else if w.extractLsb' 24 8 = 0x06 then .ok .vchunk
      else if w.extractLsb' 24 8 = 0x07 then .ok .vrecon
      else if w.extractLsb' 24 8 = 0x08 then .ok .pack
      else .error .reservedOpc) ∧
  (∀ (w : Word) (i : Instr), decodeUop w = .ok i → w = encode i ∧ i.isCommand = false)

/-- 30_encoding.md R82 and R87: a CMD word is a command exactly when bit [0] is set; the command is the one of bits
[2:1]; bits [31:3] have no effect on what it does. -/
def Obligations.CommandWordsUseBitsTwoToZero : Prop :=
  (∀ w : Word, w.getLsbD 0 = false → decodeCmd w = .error .noStart) ∧
  (∀ w : Word, w.getLsbD 0 = true → ∃ i, decodeCmd w = .ok i ∧ i.isCommand = true) ∧
  (∀ (w : Word) (i : Instr) (s : State), decodeCmd w = .ok i → exec i s = .next (s.startCommand (w.extractLsb' 1 2)))

/-! ## One instruction: its result, which is also where it completes -/

/-- 40_lifecycle.md R100: SEED gives S1 = 1 and S2 = 0 from any state, reads nothing, and changes nothing else but UPC.
-/
def Obligations.SeedWritesTheSeed : Prop :=
  encode .seed = 0x01000000 ∧
  ∀ s : State,
    exec .seed s = .next { s with
      eng := { s.eng with
        acc := some { s1 := 1, s2 := 0 }
        seq := s.eng.seq.map fun q => { q with upc := q.upc + 1 } } }

/-- 41_scalar.md R120: SSTEP folds the byte at PTR into (s1, s2), reducing both, s2 from the new s1. The byte is the one
memory holds, or a free value where the read is a draw (log 7, log 8). -/
def Obligations.SstepFoldsOneByteReduced : Prop :=
  encode .sstep = 0x02000000 ∧
  (∀ (s : State) (a : Accum) (q : Sequencer),
    s.eng.acc = some a → s.eng.seq = some q → s.platform.answer q.ptr = .answers →
    ∃ b d, (s.isDraw q.ptr = false → b = s.mem.read q.ptr.toNat ∧ d = s.draws) ∧
      exec .sstep s = .next { s with
        draws := d
        eng := { s.eng with
          acc := some {
            s1 := u32 ((a.s1.toNat + b.toNat) % 65521)
            s2 := u32 ((a.s2.toNat + (a.s1.toNat + b.toNat) % 65521) % 65521) }
          seq := some { q with ptr := q.ptr + 1, upc := q.upc + 1 } } }) ∧
  (∀ (s : State) (a : Accum) (q : Sequencer),
    s.eng.acc = some a → s.eng.seq = some q → s.platform.answer q.ptr = .refused →
    exec .sstep s = .next (s.raise (.readFault q.ptr)))

/-- 42_batched.md R140: RSTEP folds the byte at PTR into (s1, s2) by 32-bit adds without reduction, s2 from the new s1.
-/
def Obligations.RstepFoldsOneByteUnreduced : Prop :=
  encode .rstep = 0x03000000 ∧
  (∀ (s : State) (a : Accum) (q : Sequencer),
    s.eng.acc = some a → s.eng.seq = some q → s.platform.answer q.ptr = .answers →
    ∃ b d, (s.isDraw q.ptr = false → b = s.mem.read q.ptr.toNat ∧ d = s.draws) ∧
      exec .rstep s = .next { s with
        draws := d
        eng := { s.eng with
          acc := some {
            s1 := u32 (a.s1.toNat + b.toNat)
            s2 := u32 (a.s2.toNat + (u32 (a.s1.toNat + b.toNat)).toNat) }
          seq := some { q with ptr := q.ptr + 1, upc := q.upc + 1 } } }) ∧
  (∀ (s : State) (a : Accum) (q : Sequencer),
    s.eng.acc = some a → s.eng.seq = some q → s.platform.answer q.ptr = .refused →
    exec .rstep s = .next (s.raise (.readFault q.ptr)))

/-- 42_batched.md R142: REDUCE reduces both sums modulo MOD, reads no memory, sets no flag, and changes nothing else but
UPC. The values are exact, and on values already below MOD it changes nothing. -/
def Obligations.ReduceReducesBothSums : Prop :=
  encode .reduce = 0x04000000 ∧
  ∀ (s : State) (a : Accum), s.eng.acc = some a →
    ∃ a' : Accum,
      a'.s1.toNat = a.s1.toNat % 65521 ∧ a'.s2.toNat = a.s2.toNat % 65521 ∧
      (a.s1.toNat < 65521 → a.s2.toNat < 65521 → a' = a) ∧
      exec .reduce s = .next { s with
        eng := { s.eng with
          acc := some a'
          seq := s.eng.seq.map fun q => { q with upc := q.upc + 1 } } }

/-- 43_vector.md R161: VBEGIN opens a super-block at S1, with every accumulator and lane cleared, when its assertion
holds; S1 and S2 are unchanged. -/
def Obligations.VbeginOpensASuperBlock : Prop :=
  encode .vbegin = 0x05000000 ∧
  ∀ (s : State) (a : Accum),
    s.eng.build.hasVector = true → s.eng.acc = some a → a.s1.toNat < 65521 → a.s2.toNat < 65521 →
    exec .vbegin s = .next { s with
      eng := { s.eng with
        blk := some { s1e := a.s1, bs1 := 0, vp := 0, blen := 0, lanes := List.replicate s.eng.build.w 0 }
        seq := s.eng.seq.map fun q => { q with upc := q.upc + 1 } } }

/-- 43_vector.md R163: VCHUNK puts the W bytes from PTR into the lanes, VP taking BS1 as it stood before the chunk, when
every read completes and its assertion holds. Lane k takes the byte at PTR + k, going on at address 0 past 0xFFFFFFFF
(log 27, DESIGN CHOICE; no schedule reads there). -/
def Obligations.VchunkAccumulatesOneChunk : Prop :=
  encode .vchunk = 0x06000000 ∧
  (∀ (s : State) (v : Block) (q : Sequencer),
    s.eng.build.hasVector = true → s.eng.blk = some v → s.eng.seq = some q →
    (∀ k, k < s.eng.build.w → s.platform.answer (byteAddr q.ptr k) = .answers) →
    v.blen.toNat + s.eng.build.w ≤ 5552 →
    ∃ (bytes : List Byte) (d : Nat),
      bytes.length = s.eng.build.w ∧
      (∀ k, k < s.eng.build.w → s.isDraw (byteAddr q.ptr k) = false →
        bytes[k]? = some (s.mem.read (byteAddr q.ptr k).toNat)) ∧
      ((∀ k, k < s.eng.build.w → s.isDraw (byteAddr q.ptr k) = false) → d = s.draws) ∧
      exec .vchunk s = .next { s with
        draws := d
        eng := { s.eng with
          blk := some {
            s1e := v.s1e
            vp := u32 (v.vp.toNat + v.bs1.toNat)
            lanes := List.zipWith (fun l x => u32 (l.toNat + x.toNat)) v.lanes bytes
            bs1 := u32 (v.bs1.toNat + (bytes.map BitVec.toNat).sum)
            blen := u32 (v.blen.toNat + s.eng.build.w) }
          seq := some { q with ptr := q.ptr + u32 s.eng.build.w, upc := q.upc + 1 } } }) ∧
  (∀ (s : State) (v : Block) (q : Sequencer) (k : Nat),
    s.eng.build.hasVector = true → s.eng.blk = some v → s.eng.seq = some q → k < s.eng.build.w →
    (∀ j, j < k → s.platform.answer (byteAddr q.ptr j) = .answers) →
    s.platform.answer (byteAddr q.ptr k) = .refused →
    exec .vchunk s = .next (s.raise (.readFault (byteAddr q.ptr k))))

/-- 43_vector.md R165 and R166 (90_conflicts.md C2): VRECON gives S2 = (S2 + BLEN·S1E + W·VP + Σ (W − k)·LANE[k]) mod
MOD and S1 = (S1E + BS1) mod MOD when its assertion holds; the super-block registers, the lanes and PTR keep their
values. -/
def Obligations.VreconReconcilesTheSuperBlock : Prop :=
  encode .vrecon = 0x07000000 ∧
  ∀ (s : State) (a : Accum) (v : Block),
    s.eng.build.hasVector = true → s.eng.acc = some a → s.eng.blk = some v →
    v.blen.toNat ≤ 5552 → v.s1e.toNat < 65521 → a.s2.toNat < 65521 → v.lanes.length = s.eng.build.w →
    ∃ a' : Accum,
      a'.s1.toNat = (v.s1e.toNat + v.bs1.toNat) % 65521 ∧
      a'.s2.toNat =
        (a.s2.toNat + v.blen.toNat * v.s1e.toNat + s.eng.build.w * v.vp.toNat +
          ((List.range s.eng.build.w).map fun k => (s.eng.build.w - k) * (v.lanes.getD k 0).toNat).sum) % 65521 ∧
      exec .vrecon s = .next { s with
        eng := { s.eng with
          acc := some a'
          seq := s.eng.seq.map fun q => { q with upc := q.upc + 1 } } }

/-- 40_lifecycle.md R105: PACK publishes RESULT = (S2 << 16) | S1 whole, ends the operation with BUSY 0, DONE 1, ERR 0,
ERRCODE 0, and the datapath and the sequencer go to "no value", when its assertion holds; otherwise it is the model-only
fault `Unreachable`. As a number RESULT is S2 × 65536 + S1, and each half is at most 0xFFF0. The pair that is packed is
S1 and S2; only where an agent wrote into the buffer during the run it may be any reduced pair, whatever S1 and S2 hold
(20_memory.md R70, 93 I1). That PACK is where such a run's RESULT is drawn is the model's reading (log 7, DEDUCED), and so
is the fault's name assertionFailed (log 11, DEDUCED). -/
def Obligations.PackPublishesTheResult : Prop :=
  encode .pack = 0x08000000 ∧
  (∀ (s : State) (a : Accum),
    s.eng.acc = some a → a.s1.toNat < 65521 → a.s2.toNat < 65521 →
    ∃ (p : Accum) (r : Word) (d : Nat),
      (s.eng.isRaced = false → p = a ∧ d = s.draws) ∧
      r = (p.s2 <<< 16) ||| p.s1 ∧ r.toNat = p.s2.toNat * 65536 + p.s1.toNat ∧
      r = p.s2.extractLsb' 0 16 ++ p.s1.extractLsb' 0 16 ∧
      (r.extractLsb' 16 16).toNat ≤ 0xFFF0 ∧ (r.extractLsb' 0 16).toNat ≤ 0xFFF0 ∧
      exec .pack s = .next { s with
        draws := d
        eng := { s.eng with
          result := r
          status := { busy := false, done := true, err := false, errcode := 0 }
          acc := none
          blk := none
          seq := none } }) ∧
  (∀ (s : State) (a : Accum),
    s.eng.acc = some a → 65521 ≤ a.s1.toNat ∨ 65521 ≤ a.s2.toNat → exec .pack s = .fault .assertionFailed)

/-- 44_sequencer.md R193, R194 and R197: a START that finds BUSY = 0 and passes both checks stores ENGINE, clears DONE,
ERR and ERRCODE, latches SRC_ADDR and LENGTH, selects the tier, makes its schedule and sets BUSY. `engine` is the value
of ENGINE in the command's word. -/
def Obligations.AcceptedStartBeginsAnOperation : Prop :=
  ∀ (i : Instr) (engine : BitVec 2) (s : State),
    ((engine = 0 ∧ ∃ x, i = .startScalar x) ∨ (engine = 1 ∧ ∃ x, i = .startBatched x) ∨
      (engine = 2 ∧ (∃ x, i = .startVector x) ∧ s.eng.build.hasVector = true) ∨ (engine = 3 ∧ ∃ x, i = .startAuto x)) →
    s.eng.status.busy = false →
    (s.eng.length = 0 ∨ s.eng.srcAddr.toNat + s.eng.length.toNat ≤ 2 ^ 32) →
    ∃ t : Tier,
      (engine = 0 → t = .scalar) ∧ (engine = 1 → t = .batched) ∧ (engine = 2 → t = .vector) ∧
      (engine = 3 → t =
        if s.eng.build.hasVector = true ∧ s.eng.build.w ≤ s.eng.length.toNat then .vector
        else if 16 ≤ s.eng.length.toNat then .batched
        else .scalar) ∧
      exec i s = .next { s with
        eng := { s.eng with
          ctrlEngine := engine
          status := { busy := true, done := false, err := false, errcode := 0 }
          seq := some {
            base := s.eng.srcAddr
            n := s.eng.length
            ptr := s.eng.srcAddr
            eff := t
            sched := schedule s.eng.build t s.eng.length.toNat
            upc := 0
            raced := [] } } }

/-! ## Where an instruction does not complete -/

/-- 60_exceptions.md R233, R234, R237 and R239: a START that asks for VECTOR on a build without it is rejected with code
0x2, whatever the range; any other START whose buffer runs past the top of the address space is rejected with code 0x3.
Nothing but ENGINE and STATUS changes: no datapath register, RESULT or FAULT_ADDR, and BUSY stays 0. -/
def Obligations.RejectedStartReportsItsCode : Prop :=
  ∀ s : State, s.eng.status.busy = false →
    (∀ x, s.eng.build.hasVector = false →
      exec (.startVector x) s = .next { s with
        eng := { s.eng with
          ctrlEngine := 2, status := { busy := false, done := false, err := true, errcode := 2 } } }) ∧
    (∀ (i : Instr) (engine : BitVec 2),
      ((engine = 0 ∧ ∃ x, i = .startScalar x) ∨ (engine = 1 ∧ ∃ x, i = .startBatched x) ∨
        (engine = 2 ∧ (∃ x, i = .startVector x) ∧ s.eng.build.hasVector = true) ∨
        (engine = 3 ∧ ∃ x, i = .startAuto x)) →
      0 < s.eng.length.toNat → 2 ^ 32 < s.eng.srcAddr.toNat + s.eng.length.toNat →
      exec i s = .next { s with
        eng := { s.eng with
          ctrlEngine := engine, status := { busy := false, done := false, err := true, errcode := 3 } } })

/-- 10_state.md R23 and 70_reset_and_hazards.md R272: any word written to CTRL while BUSY = 1, with START set or not,
changes nothing at all: ENGINE keeps its value and no operation starts. -/
def Obligations.CtrlWriteWhileBusyIsIgnored : Prop :=
  ∀ (s : State) (data : Word), s.eng.status.busy = true → s.writeAt 0x04 data = .next s

/-- 60_exceptions.md R231 and R236: a micro-op that reads a refused address ends the operation with ERR, code 0x1 and
FAULT_ADDR; RESULT keeps its value and the datapath and the sequencer go to "no value". SSTEP and RSTEP read PTR; VCHUNK
reports the first address of its chunk that is refused, the ones before it having completed (R240); past 0xFFFFFFFF its
addresses go on at 0 (log 27, DESIGN CHOICE; no schedule reads there). -/
def Obligations.RefusedReadTerminatesTheOperation : Prop :=
  ∀ (s : State) (q : Sequencer) (k : Nat) (i : Instr),
    s.eng.seq = some q → s.platform.answer (byteAddr q.ptr k) = .refused →
    ((i = .sstep ∨ i = .rstep) ∧ k = 0 ∧ (∃ a, s.eng.acc = some a)) ∨
      (i = .vchunk ∧ k < s.eng.build.w ∧ s.eng.build.hasVector = true ∧ (∃ v, s.eng.blk = some v) ∧
        ∀ j, j < k → s.platform.answer (byteAddr q.ptr j) = .answers) →
    exec i s = .next { s with
      eng := { s.eng with
        status := { busy := false, done := false, err := true, errcode := 1 }
        faultAddr := byteAddr q.ptr k
        acc := none
        blk := none
        seq := none } }

/-- 93_implementation_defined.md I8: a read that is neither answered nor refused leaves everything as it is, so the
operation stays BUSY. The form of the hang is log 13, the order of VCHUNK's reads and assertion log 20 (both DEDUCED), and
its addresses past 0xFFFFFFFF are log 27 (DESIGN CHOICE). -/
def Obligations.SilentReadLeavesTheOperationBusy : Prop :=
  ∀ (s : State) (q : Sequencer) (k : Nat) (i : Instr),
    s.eng.seq = some q → s.platform.answer (byteAddr q.ptr k) = .silent →
    ((i = .sstep ∨ i = .rstep) ∧ k = 0 ∧ (∃ a, s.eng.acc = some a)) ∨
      (i = .vchunk ∧ k < s.eng.build.w ∧ s.eng.build.hasVector = true ∧ (∃ v, s.eng.blk = some v) ∧
        ∀ j, j < k → s.platform.answer (byteAddr q.ptr j) = .answers) →
    exec i s = .next s

/-- 10_state.md R38 and 00_scope.md R16 (93 I7, I14): exactly when a micro-op of 40 to 43 stops with the model-only
fault `Unreachable` for a register without a value or a failed assertion, on a build with the vector tier and where its
reads complete: SEED never, the others when a register they read has no value, PACK and VBEGIN also when S1 or S2 is not
reduced, VRECON also when BLEN > NMAX, S1E ≥ MOD or S2 ≥ MOD, VCHUNK also when BLEN + W > NMAX. -/
def Obligations.UnreachableFaultsWhereTheSpecSays : Prop :=
  ∀ s : State, s.eng.build.hasVector = true → (∀ a, s.platform.answer a = .answers) →
    (∀ f, exec .seed s ≠ .fault f) ∧
    ((∃ f, exec .sstep s = .fault f) ↔ s.eng.acc = none ∨ s.eng.seq = none) ∧
    ((∃ f, exec .rstep s = .fault f) ↔ s.eng.acc = none ∨ s.eng.seq = none) ∧
    ((∃ f, exec .reduce s = .fault f) ↔ s.eng.acc = none) ∧
    ((∃ f, exec .pack s = .fault f) ↔ ∀ a, s.eng.acc = some a → 65521 ≤ a.s1.toNat ∨ 65521 ≤ a.s2.toNat) ∧
    ((∃ f, exec .vbegin s = .fault f) ↔ ∀ a, s.eng.acc = some a → 65521 ≤ a.s1.toNat ∨ 65521 ≤ a.s2.toNat) ∧
    ((∃ f, exec .vrecon s = .fault f) ↔ ∀ a v, s.eng.acc = some a → s.eng.blk = some v →
      5552 < v.blen.toNat ∨ 65521 ≤ v.s1e.toNat ∨ 65521 ≤ a.s2.toNat) ∧
    ((∃ f, exec .vchunk s = .fault f) ↔
      s.eng.seq = none ∨ ∀ v, s.eng.blk = some v → 5552 < v.blen.toNat + s.eng.build.w)

/-- Where the model stops under a name of its own: a vector micro-op on a build without the vector tier, whose registers
it does not have (10_state.md R31, R32; log 24), and a buffer read whose region has read side effects, which 93 I2 says to
refuse (20_memory.md R65; the order of VCHUNK's reads and assertion is log 20, DEDUCED, and its addresses past 0xFFFFFFFF
are log 27, DESIGN CHOICE). -/
def Obligations.StopsUnderTheirNames : Prop :=
  (∀ s : State, s.eng.build.hasVector = false →
    exec .vbegin s = .fault .absentTier ∧ exec .vchunk s = .fault .absentTier ∧ exec .vrecon s = .fault .absentTier) ∧
  (∀ (s : State) (q : Sequencer) (k : Nat) (i : Instr),
    s.eng.seq = some q → s.platform.answer (byteAddr q.ptr k) = .sideEffects →
    ((i = .sstep ∨ i = .rstep) ∧ k = 0 ∧ (∃ a, s.eng.acc = some a)) ∨
      (i = .vchunk ∧ k < s.eng.build.w ∧ s.eng.build.hasVector = true ∧ (∃ v, s.eng.blk = some v) ∧
        ∀ j, j < k → s.platform.answer (byteAddr q.ptr j) = .answers) →
    exec i s = .refused .sideEffectRead)

/-! ## Frames -/

/-- Frame of SEED, REDUCE, VBEGIN and VRECON, which read no memory (40_lifecycle.md R100, 42_batched.md R142,
43_vector.md R161, R165): no Host register, no STATUS bit, no byte of memory and no sequencer register but UPC changes;
SEED, REDUCE and VRECON leave the super-block registers and the lanes, VBEGIN leaves S1 and S2. -/
def Obligations.RegisterMicroOpsFrame : Prop :=
  ∀ (i : Instr) (s t : State), (i = .seed ∨ i = .reduce ∨ i = .vbegin ∨ i = .vrecon) → exec i s = .next t →
    t.eng.build = s.eng.build ∧ t.eng.ctrlEngine = s.eng.ctrlEngine ∧ t.eng.status = s.eng.status ∧
    t.eng.srcAddr = s.eng.srcAddr ∧ t.eng.length = s.eng.length ∧ t.eng.result = s.eng.result ∧
    t.eng.faultAddr = s.eng.faultAddr ∧
    (i ≠ .vbegin → t.eng.blk = s.eng.blk) ∧ (i = .vbegin → t.eng.acc = s.eng.acc) ∧
    (∀ q, s.eng.seq = some q → t.eng.seq = some { q with upc := q.upc + 1 }) ∧
    (∀ a, t.mem.read a = s.mem.read a) ∧
    t.others = s.others ∧ t.platform = s.platform ∧ t.uncleaned = s.uncleaned ∧ t.host = s.host ∧ t.turns = s.turns ∧
    t.draws = s.draws ∧ t.lastRead = s.lastRead

/-- Frame of SSTEP, RSTEP and VCHUNK (41_scalar.md R120, 42_batched.md R140, 43_vector.md R163): no byte of memory, no
RESULT, CTRL, SRC_ADDR, LENGTH or other instance changes. Either the operation ends with a ReadFault, or nothing of
STATUS, FAULT_ADDR and the sequencer but PTR and UPC changes, SSTEP and RSTEP leave the super-block registers and the
lanes, and VCHUNK leaves S1 and S2. -/
def Obligations.ByteReadersFrame : Prop :=
  ∀ (i : Instr) (s t : State), (i = .sstep ∨ i = .rstep ∨ i = .vchunk) → exec i s = .next t →
    t.eng.build = s.eng.build ∧ t.eng.ctrlEngine = s.eng.ctrlEngine ∧ t.eng.srcAddr = s.eng.srcAddr ∧
    t.eng.length = s.eng.length ∧ t.eng.result = s.eng.result ∧
    (∀ a, t.mem.read a = s.mem.read a) ∧
    t.others = s.others ∧ t.platform = s.platform ∧ t.uncleaned = s.uncleaned ∧ t.host = s.host ∧ t.turns = s.turns ∧
    t.lastRead = s.lastRead ∧
    ((∃ a, t.eng.status = Status.failed (.readFault a) ∧ t.eng.faultAddr = a ∧ s.platform.answer a = .refused) ∨
      (t.eng.status = s.eng.status ∧ t.eng.faultAddr = s.eng.faultAddr ∧
        (i ≠ .vchunk → t.eng.blk = s.eng.blk) ∧ (i = .vchunk → t.eng.acc = s.eng.acc) ∧
        ∃ q p u, s.eng.seq = some q ∧ t.eng.seq = some { q with ptr := p, upc := u }))

/-- Frame of PACK and of the four commands (40_lifecycle.md R105, 44_sequencer.md R193): PACK changes STATUS, RESULT,
the datapath and the sequencer only (and, after a racing write, the model's counter of free values, log 7); a command changes
ENGINE, STATUS and the sequencer only; no byte of memory, no other
instance and neither SRC_ADDR, LENGTH nor FAULT_ADDR changes. -/
def Obligations.PackAndCommandsFrame : Prop :=
  ∀ (i : Instr) (s t : State), (i = .pack ∨ i.isCommand = true) → exec i s = .next t →
    t.eng.build = s.eng.build ∧ t.eng.srcAddr = s.eng.srcAddr ∧ t.eng.length = s.eng.length ∧
    t.eng.faultAddr = s.eng.faultAddr ∧
    (i = .pack → t.eng.ctrlEngine = s.eng.ctrlEngine) ∧
    (i ≠ .pack → t.eng.result = s.eng.result ∧ t.eng.acc = s.eng.acc ∧ t.eng.blk = s.eng.blk) ∧
    (∀ a, t.mem.read a = s.mem.read a) ∧
    t.others = s.others ∧ t.platform = s.platform ∧ t.uncleaned = s.uncleaned ∧ t.host = s.host ∧ t.turns = s.turns ∧
    (i ≠ .pack ∨ s.eng.isRaced = false → t.draws = s.draws) ∧ t.lastRead = s.lastRead

/-! ## Whole-machine rules over all instructions and all turns -/

/-- 20_memory.md R64: whatever an Engine does, no byte of the buffer space changes. Of the Host's lines only a store
writes it, cleaning included; that clause is the model's: a store line is the moment a Host write becomes visible (log 16,
DESIGN CHOICE), and cleaning moves no byte (log 8, DEDUCED). -/
def Obligations.OnlyAHostStoreWritesMemory : Prop :=
  (∀ (i : Instr) (s t : State), exec i s = .next t → ∀ a, t.mem.read a = s.mem.read a) ∧
  (∀ s t : State, s.engineTurn = .next t → ∀ a, t.mem.read a = s.mem.read a) ∧
  (∀ (s t : State) (line : HostLine), s.mem.wf = true → s.hostLine line = .next t →
    ∀ a, t.mem.read a ≠ s.mem.read a → ∃ addr b, line = .store addr b ∧ addr.toNat = a ∧ t.mem.read a = b)

/-- 40_lifecycle.md R106 and 10_state.md R27: PACK is the only instruction that changes RESULT, and the only way
DONE becomes 1. -/
def Obligations.OnlyPackPublishes : Prop :=
  ∀ (i : Instr) (s t : State), exec i s = .next t →
    (t.eng.result ≠ s.eng.result → i = .pack) ∧ (s.eng.status.done = false → t.eng.status.done = true → i = .pack)

/-- 10_state.md R28: only a ReadFault changes FAULT_ADDR, whatever the instruction; FAULT_ADDR then holds a refused
address, and STATUS shows ERR with code 0x1. -/
def Obligations.OnlyAReadFaultWritesFaultAddr : Prop :=
  ∀ (i : Instr) (s t : State), exec i s = .next t → t.eng.faultAddr ≠ s.eng.faultAddr →
    (i = .sstep ∨ i = .rstep ∨ i = .vchunk) ∧ s.platform.answer t.eng.faultAddr = .refused ∧
    t.eng.status = { busy := false, done := false, err := true, errcode := 1 }

/-- 10_state.md R24: from a legal STATUS every instruction gives a legal STATUS: only four combinations of (BUSY, DONE,
ERR) occur, and ERRCODE is 0 when ERR is 0. -/
def Obligations.StatusStaysLegal : Prop :=
  ∀ (i : Instr) (s t : State), s.eng.status.legal = true → exec i s = .next t → t.eng.status.legal = true

/-- 10_state.md R37 and 60_exceptions.md R232: only START, PACK and the termination by a ReadFault write STATUS; no
other micro-op sets a flag or ends the operation, whatever its arithmetic. -/
def Obligations.OnlyStartPackAndReadFaultWriteStatus : Prop :=
  ∀ (i : Instr) (s t : State), exec i s = .next t → t.eng.status ≠ s.eng.status →
    i.isCommand = true ∨ i = .pack ∨
      ((i = .sstep ∨ i = .rstep ∨ i = .vchunk) ∧ ∃ a, t = s.raise (.readFault a) ∧ s.platform.answer a = .refused)

/-- 60_exceptions.md R246: an Engine step leaves every other instance as it was, and does the same whatever the other
instances are: instances share no state. -/
def Obligations.InstancesShareNoState : Prop :=
  ∀ (s : State) (o : List Engine),
    match s.engineTurn with
    | .next t => t.others = s.others ∧ State.engineTurn { s with others := o } = .next { t with others := o }
    | .fault f => State.engineTurn { s with others := o } = .fault f
    | .refused r => State.engineTurn { s with others := o } = .refused r

/-! ## The step -/

/-- 44_sequencer.md R206: while BUSY, the Engine's step is the micro-op that SCHED holds at UPC, both when no turn is
given and when the turn is the Engine's; while BUSY = 0 the Engine's turn changes nothing. The turns and their default
order are the model's (log 9, DESIGN CHOICE). -/
def Obligations.StepRunsTheScheduledMicroOp : Prop :=
  (∀ (s : State) (q : Sequencer) (w : Word) (i : Instr),
    s.eng.status.busy = true → s.eng.seq = some q → q.sched[q.upc]? = some w → decodeUop w = .ok i →
    (s.turns = [] → step s = exec i s) ∧
    (∀ rest, s.turns = .engine :: rest → step s = exec i { s with turns := rest })) ∧
  (∀ (s : State) (rest : List Turn), s.eng.status.busy = false → s.turns = .engine :: rest →
    step s = .next { s with turns := rest })

/-- 44_sequencer.md R193 and 30_encoding.md R80: when the Host's next line writes a command word to CTRL of the instance
in focus and it is the Host's move, the step is that command; around it the step only takes the line and the turn away.
Whatever the next line is, the Host's move performs it. The model's choices in it: whose move it is (log 9); that the
address REG_BASE + 4, 32 bits wide and modulo 2^32, reaches CTRL (log 25); and that the instance in focus answers where
blocks overlap (log 26), all DESIGN CHOICE. -/
def Obligations.StepRunsTheCommandWritten : Prop :=
  (∀ (s : State) (data : Word) (i : Instr) (lines : List HostLine),
    s.host = .wr .word (s.eng.build.regBase + 4) data :: lines → decodeCmd data = .ok i →
    (∀ rest, s.turns = .host :: rest → step s = exec i { s with turns := rest, host := lines }) ∧
    (s.turns = [] → s.eng.status.busy = false → step s = exec i { s with host := lines })) ∧
  (∀ (s : State) (line : HostLine) (lines : List HostLine), s.host = line :: lines →
    (∀ rest, s.turns = .host :: rest → step s = State.hostLine { s with turns := rest, host := lines } line) ∧
    (s.turns = [] → s.eng.status.busy = false → step s = State.hostLine { s with host := lines } line)) ∧
  (∀ (s : State) (rest : List Turn), s.host = [] → s.turns = .host :: rest → step s = .next { s with turns := rest })

/-- The model's own way of placing one instruction (log 10, and for a command's write log 25 and log 26, DESIGN CHOICE):
whatever the state, the very next step runs exactly the instruction the table word stands for. -/
def Obligations.PlacedWordIsRunNext : Prop :=
  ∀ (s : State) (nbits w : Nat) (i : Instr), decodeTableWord nbits w = some i →
    (i.isCommand = true → step (s.withFetchWord nbits w) = exec i s) ∧
    (i.isCommand = false →
      step (s.withFetchWord nbits w) = exec i { s with eng := s.eng.withMicroOp (BitVec.ofNat 32 w) })

/-! ## The Host's side -/

/-- 10_state.md R20 to R29: what each register reads as, bit by bit, and reserved offsets read 0. -/
def Obligations.RegistersReadAsTheMapSays : Prop :=
  ∀ e : Engine,
    e.readReg 0x00 = 0x41443332 ∧
    (e.readReg 0x04).extractLsb' 0 1 = 0 ∧ (e.readReg 0x04).extractLsb' 1 2 = e.ctrlEngine ∧
    (e.readReg 0x04).extractLsb' 3 29 = 0 ∧
    (e.readReg 0x08).getLsbD 0 = e.status.busy ∧ (e.readReg 0x08).getLsbD 1 = e.status.done ∧
    (e.readReg 0x08).getLsbD 2 = e.status.err ∧ (e.readReg 0x08).getLsbD 3 = false ∧
    (e.readReg 0x08).extractLsb' 4 4 = e.status.errcode ∧ (e.readReg 0x08).extractLsb' 8 24 = 0 ∧
    e.readReg 0x0C = e.srcAddr ∧ e.readReg 0x10 = e.length ∧ e.readReg 0x14 = e.result ∧
    e.readReg 0x18 = e.faultAddr ∧
    (e.readReg 0x1C).extractLsb' 0 16 = BitVec.ofNat 16 e.build.w ∧
    (e.readReg 0x1C).getLsbD 16 = e.build.hasVector ∧ (e.readReg 0x1C).extractLsb' 17 15 = 0 ∧
    (∀ off, 0x20 ≤ off → e.readReg off = 0)

/-- 10_state.md R20, R21 and 93 I9: a 32-bit read at an offset that is a multiple of 4 in the block of the instance in
focus answers the register and changes nothing of the machine but the data answered; a 32-bit write there is the write
of that register; a sub-word or misaligned access of the block is refused. An address outside the block in focus reaches
the first other instance whose block holds it, and is refused where there is none. The model's choices in it: 32-bit Host
addresses and offsets modulo 2^32 (log 25), which instance answers where blocks overlap (log 26), where the data of a read
go (log 15) and the refusal outside every block (log 14), all DESIGN CHOICE. -/
def Obligations.HostReadsHaveNoSideEffect : Prop :=
  (∀ (s : State) (width : AccessWidth) (addr data : Word), (addr - s.eng.build.regBase).toNat < 256 →
    (width = .word → (addr - s.eng.build.regBase).toNat % 4 = 0 →
      s.hostLine (.rd width addr) =
        .next { s with lastRead := some (s.eng.readReg (addr - s.eng.build.regBase).toNat) } ∧
      s.hostLine (.wr width addr data) = s.writeAt (addr - s.eng.build.regBase).toNat data) ∧
    (width ≠ .word ∨ (addr - s.eng.build.regBase).toNat % 4 ≠ 0 →
      s.hostLine (.rd width addr) = .refused .badRegisterAccess ∧
      s.hostLine (.wr width addr data) = .refused .badRegisterAccess)) ∧
  (∀ (s : State) (line : HostLine) (addr : Word), 256 ≤ (addr - s.eng.build.regBase).toNat →
    (∃ width data, line = .wr width addr data) ∨ (∃ width, line = .rd width addr) ∨ line = .poll addr →
    ((∀ e ∈ s.others, 256 ≤ (addr - e.build.regBase).toNat) → s.hostLine line = .refused .noRegisterBlock) ∧
    (∀ (k : Nat) (e : Engine), s.others[k]? = some e → (addr - e.build.regBase).toNat < 256 →
      (∀ j e', j < k → s.others[j]? = some e' → 256 ≤ (addr - e'.build.regBase).toNat) →
      s.hostLine line = State.hostLine { s with eng := e, others := s.others.set k s.eng } line))

/-- 70_reset_and_hazards.md R273: writes to SRC_ADDR and LENGTH, while BUSY as well, take effect in the registers, which
read back the new values; the running operation keeps its latched values; the next START that is accepted uses them. -/
def Obligations.AddressAndLengthWritesAreStored : Prop :=
  ∀ (s : State) (data : Word),
    (∃ t, s.writeAt 0x0C data = .next t ∧ t = { s with eng := { s.eng with srcAddr := data } } ∧
      t.eng.readReg 0x0C = data ∧ t.eng.seq = s.eng.seq ∧ t.eng.acc = s.eng.acc ∧ t.eng.blk = s.eng.blk ∧
      t.eng.newSequencer.base = data ∧ t.eng.newSequencer.ptr = data) ∧
    (∃ t, s.writeAt 0x10 data = .next t ∧ t = { s with eng := { s.eng with length := data } } ∧
      t.eng.readReg 0x10 = data ∧ t.eng.seq = s.eng.seq ∧ t.eng.acc = s.eng.acc ∧ t.eng.blk = s.eng.blk ∧
      t.eng.newSequencer.n = data)

/-- 10_state.md R20 and R21: a write to a read-only register (ID, STATUS, RESULT, FAULT_ADDR, PARAM) or to a reserved
offset changes nothing. -/
def Obligations.ReadOnlyAndReservedWritesAreIgnored : Prop :=
  ∀ (s : State) (off : Nat) (data : Word),
    (off = 0x00 ∨ off = 0x08 ∨ off = 0x14 ∨ off = 0x18 ∨ off = 0x1C ∨ 0x20 ≤ off) → s.writeAt off data = .next s

/-- 30_encoding.md R87 and 10_state.md R23: a CTRL write with START = 0 while BUSY = 0 stores ENGINE, which reads back
as written, and starts nothing; every other field keeps its value. -/
def Obligations.CtrlWriteWithoutStartStoresEngine : Prop :=
  ∀ (s : State) (data : Word), s.eng.status.busy = false → data.getLsbD 0 = false →
    s.writeAt 0x04 data = .next { s with eng := { s.eng with ctrlEngine := data.extractLsb' 1 2 } } ∧
    (Engine.readReg { s.eng with ctrlEngine := data.extractLsb' 1 2 } 0x04).extractLsb' 1 2 = data.extractLsb' 1 2

/-- 30_encoding.md R88: `POLL` repeats the read while bit [0] reads 1 and is done when it reads 0; each read answers the
Host and changes nothing else. Stated for the STATUS register of the instance in focus. The model's choices in it: one
read a step (log 19), where the data go (log 15), the 32-bit address REG_BASE + 8 modulo 2^32 (log 25) and the instance in
focus answering where blocks overlap (log 26), all DESIGN CHOICE. -/
def Obligations.PollRepeatsWhileBusy : Prop :=
  ∀ (s : State),
    (s.eng.status.busy = true →
      s.hostLine (.poll (s.eng.build.regBase + 8)) =
        .next { s with
          lastRead := some s.eng.status.toWord
          host := .poll (s.eng.build.regBase + 8) :: s.host }) ∧
    (s.eng.status.busy = false →
      s.hostLine (.poll (s.eng.build.regBase + 8)) = .next { s with lastRead := some s.eng.status.toWord })

/-- 44_sequencer.md R208: the Host cannot see the datapath or the sequencer: two instances that differ only in S1, S2,
the super-block registers, the lanes and the sequencer read the same at every offset, and take every register write
other than CTRL the same way. -/
def Obligations.HostCannotSeeTheDatapath : Prop :=
  ∀ (e : Engine) (acc : Option Accum) (blk : Option Block) (seq : Option Sequencer) (off : Nat) (data : Word),
    Engine.readReg { e with acc := acc, blk := blk, seq := seq } off = e.readReg off ∧
    Engine.writeReg { e with acc := acc, blk := blk, seq := seq } off data =
      { e.writeReg off data with acc := acc, blk := blk, seq := seq }

/-- 44_sequencer.md R196, R208 and 70_reset_and_hazards.md R272, R273: while an operation runs, no register access of
the Host to its block, whatever it writes, touches the operation: STATUS, ENGINE, RESULT, FAULT_ADDR, the datapath, the
sequencer, memory and the other instances keep their values. That an address of the block in focus reaches this instance
alone is the model's choice where blocks overlap (log 26) or run across the top of the 32-bit Host space (log 25), both
DESIGN CHOICE. -/
def Obligations.HostAccessesDoNotDisturbARun : Prop :=
  ∀ (s t : State) (line : HostLine) (addr : Word),
    s.eng.status.busy = true → (addr - s.eng.build.regBase).toNat < 256 →
    (∃ width data, line = .wr width addr data) ∨ (∃ width, line = .rd width addr) ∨ line = .poll addr →
    s.hostLine line = .next t →
    t.eng.status = s.eng.status ∧ t.eng.ctrlEngine = s.eng.ctrlEngine ∧ t.eng.result = s.eng.result ∧
    t.eng.faultAddr = s.eng.faultAddr ∧ t.eng.acc = s.eng.acc ∧ t.eng.blk = s.eng.blk ∧ t.eng.seq = s.eng.seq ∧
    t.mem = s.mem ∧ t.others = s.others ∧ t.platform = s.platform ∧ t.uncleaned = s.uncleaned ∧ t.draws = s.draws

/-- What Host stores and cache cleaning do to memory, to runs and to later reads.
Which reads are draws: those of a byte written during the run (20_memory.md R70), and on a port that is not coherent those
of a byte stored and not cleaned (R75, 70_reset_and_hazards.md R276; log 8, DEDUCED).
A store: the byte is what memory holds from then on, every other byte reads as before, and each instance, in focus or not,
that runs over the byte has its reads of it open and its RESULT too, be it read already or not
(PackPublishesTheResult; log 7, DEDUCED); every other instance stays as it was (log 22, DEDUCED). The store line is the
moment a write becomes visible (log 16, DESIGN CHOICE). Where the port is coherent a store makes no later operation's read
a draw (R69 (a)).
Cleaning a range: memory keeps its bytes; the addresses leave `uncleaned`, so that a byte no run covers reads as memory
again; and for a run over such a byte it is a write during the run (log 8, DEDUCED). -/
def Obligations.HostStoreIsSeenOrRaces : Prop :=
  (∀ (s : State) (a : Word), s.isDraw a = true ↔
    (s.platform.coherent = false ∧ a.toNat ∈ s.uncleaned) ∨ ∃ q, s.eng.seq = some q ∧ a.toNat ∈ q.raced) ∧
  (∀ (s : State) (addr : Word) (b : Byte), s.mem.wf = true →
    ∃ t, s.hostLine (.store addr b) = .next t ∧ t.mem.wf = true ∧ t.mem.read addr.toNat = b ∧
      (∀ a, a ≠ addr.toNat → t.mem.read a = s.mem.read a) ∧
      s.eng.RacedBy t.eng (fun a => a = addr.toNat) ∧
      t.others.length = s.others.length ∧
      (∀ (k : Nat) (e : Engine), s.others[k]? = some e →
        ∃ e', t.others[k]? = some e' ∧ e.RacedBy e' (fun a => a = addr.toNat)) ∧
      (s.eng.RunsOver addr.toNat → t.isDraw addr = true) ∧
      (s.platform.coherent = false →
        t.isDraw addr = true ∧ ∀ a, a ∈ t.uncleaned ↔ a = addr.toNat ∨ a ∈ s.uncleaned) ∧
      (s.platform.coherent = true → t.uncleaned = s.uncleaned ∧ (s.eng.seq = none → t.isDraw addr = false)) ∧
      (∀ a, a ≠ addr → t.isDraw a = s.isDraw a) ∧
      t.platform = s.platform ∧ t.host = s.host ∧ t.turns = s.turns ∧ t.draws = s.draws ∧ t.lastRead = s.lastRead) ∧
  (∀ (s : State) (lo size : Nat),
    ∃ t, s.hostLine (.clean lo size) = .next t ∧ t.mem = s.mem ∧
      (∀ a, a ∈ t.uncleaned ↔ a ∈ s.uncleaned ∧ ¬ (lo ≤ a ∧ a < lo + size)) ∧
      s.eng.RacedBy t.eng (fun a => a ∈ s.uncleaned ∧ lo ≤ a ∧ a < lo + size) ∧
      t.others.length = s.others.length ∧
      (∀ (k : Nat) (e : Engine), s.others[k]? = some e →
        ∃ e', t.others[k]? = some e' ∧ e.RacedBy e' (fun a => a ∈ s.uncleaned ∧ lo ≤ a ∧ a < lo + size)) ∧
      (∀ a : Word, lo ≤ a.toNat → a.toNat < lo + size →
        (a.toNat ∈ s.uncleaned → s.eng.RunsOver a.toNat → t.isDraw a = true) ∧
        ((∀ q, s.eng.seq = some q → a.toNat ∉ q.raced) → ¬ (a.toNat ∈ s.uncleaned ∧ s.eng.RunsOver a.toNat) →
          t.isDraw a = false)) ∧
      (∀ a : Word, ¬ (lo ≤ a.toNat ∧ a.toNat < lo + size) → t.isDraw a = s.isDraw a) ∧
      t.platform = s.platform ∧ t.host = s.host ∧ t.turns = s.turns ∧ t.draws = s.draws ∧ t.lastRead = s.lastRead)

/-! ## Reset -/

/-- 70_reset_and_hazards.md R260 and 10_state.md R40: a block reset, at any time, puts every register of the instance
into its reset value and abandons a running operation; ID and PARAM keep their constants. That it comes as a turn, and
that memory and the other instances keep their values, is log 9 and log 21 (DESIGN CHOICE). -/
def Obligations.BlockResetClearsTheInstance : Prop :=
  ∀ (s : State) (rest : List Turn), s.turns = .reset :: rest →
    ∃ t, step s = .next t ∧
      t.eng.build = s.eng.build ∧ t.eng.ctrlEngine = 0 ∧
      t.eng.status = { busy := false, done := false, err := false, errcode := 0 } ∧ t.eng.srcAddr = 0 ∧
      t.eng.length = 0 ∧ t.eng.result = 0 ∧ t.eng.faultAddr = 0 ∧ t.eng.acc = none ∧ t.eng.blk = none ∧
      t.eng.seq = none ∧
      t.eng.readReg 0x00 = s.eng.readReg 0x00 ∧ t.eng.readReg 0x1C = s.eng.readReg 0x1C ∧
      t.mem = s.mem ∧ t.others = s.others

/-- 70_reset_and_hazards.md R261 and 10_state.md R40: what the registers read after reset (PARAM is that of the default
build of R10). -/
def Obligations.ResetRegistersRead : Prop :=
  State.reset.eng.readReg 0x00 = 0x41443332 ∧ State.reset.eng.readReg 0x04 = 0 ∧ State.reset.eng.readReg 0x08 = 0 ∧
  State.reset.eng.readReg 0x0C = 0 ∧ State.reset.eng.readReg 0x10 = 0 ∧ State.reset.eng.readReg 0x14 = 0 ∧
  State.reset.eng.readReg 0x18 = 0 ∧ State.reset.eng.readReg 0x1C = 0x00010010 ∧ State.reset.eng.acc = none ∧
  State.reset.eng.blk = none ∧ State.reset.eng.seq = none

/-! ## Schedules -/

/-- 44_sequencer.md R205: the schedule lengths of the three tiers, ⌈n / NMAX⌉ being (n + 5551) / 5552. -/
def Obligations.ScheduleLengths : Prop :=
  ∀ (b : Build) (n : Nat),
    (schedule b .scalar n).length = n + 2 ∧
    (n < 16 → (schedule b .batched n).length = n + 2) ∧
    (16 ≤ n → (schedule b .batched n).length = n + 2 + (n + 5551) / 5552) ∧
    (n < b.w → (schedule b .vector n).length = n + 2) ∧
    (b.w ≤ n → (schedule b .vector n).length =
      2 + ((segments n).map fun m => if b.w ≤ m then 2 + m / b.w + m % b.w else m).sum)

/-- 44_sequencer.md R201: on every legal build the schedule for n consumes exactly n bytes. -/
def Obligations.ScheduleConsumesTheBuffer : Prop :=
  ∀ (b : Build) (t : Tier) (n : Nat), b.legal = true → bytesConsumed b.w (schedule b t n) = n

/-- 44_sequencer.md R200 and 40_lifecycle.md R101, R106: every schedule is SEED, then words that are micro-ops other than
SEED and PACK, then PACK. -/
def Obligations.ScheduleStartsWithSeedEndsWithPack : Prop :=
  ∀ (b : Build) (t : Tier) (n : Nat),
    ∃ mid : List Instr, schedule b t n = 0x01000000 :: (mid.map encode ++ [0x08000000]) ∧
      ∀ i ∈ mid, i.isCommand = false ∧ i ≠ .seed ∧ i ≠ .pack

/-- 44_sequencer.md R203 and R204: short inputs take the scalar schedule under BATCHED and VECTOR; and on a build without
the vector tier, no START leads to EFF = VECTOR or to a schedule that contains VBEGIN, VCHUNK or VRECON. -/
def Obligations.ShortInputsAndTheAbsentTier : Prop :=
  (∀ (b : Build) (n : Nat), n < 16 → schedule b .batched n = schedule b .scalar n) ∧
  (∀ (b : Build) (n : Nat), n < b.w → schedule b .vector n = schedule b .scalar n) ∧
  (∀ (i : Instr) (s t : State) (q : Sequencer),
    s.eng.build.hasVector = false → s.eng.status.busy = false → i.isCommand = true → exec i s = .next t →
    t.eng.status.busy = true → t.eng.seq = some q →
    q.eff ≠ .vector ∧ (0x05000000 : Word) ∉ q.sched ∧ (0x06000000 : Word) ∉ q.sched ∧ (0x07000000 : Word) ∉ q.sched)

/-! ## The arithmetic of the three engines -/

/-- 41_scalar.md R122: the closed form of the scalar recurrence, from any reduced pair and from the seed. The recurrence
is SSTEP's: its first clause says what one byte does to the pair. -/
def Obligations.ScalarClosedForm : Prop :=
  (∀ (a : Accum) (d : Byte),
    (a.stepReduced d).s1.toNat = (a.s1.toNat + d.toNat) % 65521 ∧
    (a.stepReduced d).s2.toNat = (a.s2.toNat + (a.stepReduced d).s1.toNat) % 65521) ∧
  (∀ (ds : List Byte) (a : Accum), a.s1.toNat < 65521 → a.s2.toNat < 65521 →
    (ds.foldl Accum.stepReduced a).s1.toNat = (a.s1.toNat + byteSum ds) % 65521 ∧
    (ds.foldl Accum.stepReduced a).s2.toNat =
      (a.s2.toNat + ds.length * a.s1.toNat + weightedSum ds) % 65521) ∧
  (∀ ds : List Byte,
    (ds.foldl Accum.stepReduced { s1 := 1, s2 := 0 }).s1.toNat = (1 + byteSum ds) % 65521 ∧
    (ds.foldl Accum.stepReduced { s1 := 1, s2 := 0 }).s2.toNat = (ds.length + weightedSum ds) % 65521)

/-- 41_scalar.md R124: the packed value of the closed form; both halves are below 0xFFF1. -/
def Obligations.Adler32ClosedForm : Prop :=
  ∀ ds : List Byte,
    adler32 ds = (u32 ((ds.length + weightedSum ds) % 65521)) <<< 16 ||| u32 ((1 + byteSum ds) % 65521) ∧
    ((adler32 ds).extractLsb' 16 16).toNat < 0xFFF1 ∧ ((adler32 ds).extractLsb' 0 16).toNat < 0xFFF1

/-- 42_batched.md R145 (90_conflicts.md C1): in a segment of at most 5552 bytes entered with S1, S2 ≤ 65520 no RSTEP
wraps: S1 and S2 are the exact integers, within the bounds of R145; all-0xFF bytes from (65520, 65520) attain them; and
5552 is the largest length whose bound fits 32 bits. -/
def Obligations.BatchedSegmentNeverWraps : Prop :=
  (∀ (ds : List Byte) (a : Accum), ds.length ≤ 5552 → a.s1.toNat ≤ 65520 → a.s2.toNat ≤ 65520 →
    (ds.foldl Accum.stepRaw a).s1.toNat = a.s1.toNat + byteSum ds ∧
    (ds.foldl Accum.stepRaw a).s2.toNat = a.s2.toNat + ds.length * a.s1.toNat + weightedSum ds ∧
    a.s1.toNat + byteSum ds ≤ 65520 + 255 * ds.length ∧
    a.s2.toNat + ds.length * a.s1.toNat + weightedSum ds ≤
      (ds.length + 1) * 65520 + 255 * (ds.length * (ds.length + 1)) / 2) ∧
  (∀ m, m ≤ 5552 →
    ((List.replicate m (0xFF : Byte)).foldl Accum.stepRaw { s1 := 65520, s2 := 65520 }).s1.toNat = 65520 + 255 * m ∧
    ((List.replicate m (0xFF : Byte)).foldl Accum.stepRaw { s1 := 65520, s2 := 65520 }).s2.toNat =
      (m + 1) * 65520 + 255 * (m * (m + 1)) / 2) ∧
  (∀ m, (m + 1) * 65520 + 255 * (m * (m + 1)) / 2 ≤ 2 ^ 32 - 1 ↔ m ≤ 5552)

/-- 42_batched.md R146: a segment of at most NMAX bytes entered reduced, by RSTEPs and one REDUCE, gives the values that
SSTEPs give. -/
def Obligations.BatchedSegmentEqualsScalar : Prop :=
  ∀ (ds : List Byte) (a : Accum), ds.length ≤ 5552 → a.s1.toNat < 65521 → a.s2.toNat < 65521 →
    (ds.foldl Accum.stepRaw a).reduced = ds.foldl Accum.stepReduced a

/-- 43_vector.md R173: a super-block of chunks of W bytes, by VBEGIN, VCHUNKs and VRECON, gives the closed forms of R173,
which are the values that SSTEPs over its bytes give, and with the leftover SSTEPs the whole segment equals its SSTEPs;
for every legal W (R11). -/
def Obligations.VectorSuperBlockEqualsScalar : Prop :=
  ∀ (w : Nat) (chunks : List (List Byte)) (rest : List Byte) (a : Accum), 1 ≤ w → (∀ c ∈ chunks, c.length = w) →
    chunks.length * w ≤ 5552 → a.s1.toNat < 65521 → a.s2.toNat < 65521 →
    let r := (chunks.foldl (fun v c => v.addChunk w c) (Block.opened w a.s1)).reconciled w a.s2
    r.s1.toNat = (a.s1.toNat + byteSum chunks.flatten) % 65521 ∧
    r.s2.toNat = (a.s2.toNat + (chunks.length * w) * a.s1.toNat + weightedSum chunks.flatten) % 65521 ∧
    r = chunks.flatten.foldl Accum.stepReduced a ∧
    rest.foldl Accum.stepReduced r = (chunks.flatten ++ rest).foldl Accum.stepReduced a

/-- 43_vector.md R175: the bounds of the vector datapath for every legal W, which no `u32` of VCHUNK exceeds. T is the
unreduced S2 that the same bytes reach by RSTEPs. -/
def Obligations.VectorDatapathNeverWraps : Prop :=
  ∀ (w : Nat) (chunks : List (List Byte)) (a : Accum), 1 ≤ w → w ≤ 5552 → (∀ c ∈ chunks, c.length = w) →
    chunks.length * w ≤ 5552 → a.s1.toNat ≤ 65520 → a.s2.toNat ≤ 65520 →
    let v := chunks.foldl (fun v c => v.addChunk w c) (Block.opened w a.s1)
    (∀ l ∈ v.lanes, l.toNat ≤ 255 * chunks.length) ∧ 255 * chunks.length ≤ 1415760 ∧
    v.bs1.toNat = byteSum chunks.flatten ∧ v.bs1.toNat ≤ 255 * (chunks.length * w) ∧
    255 * (chunks.length * w) ≤ 1415760 ∧
    2 * v.vp.toNat ≤ 255 * w * (chunks.length * (chunks.length - 1)) ∧ w * v.vp.toNat ≤ v.total w a.s2 ∧
    v.blen.toNat = chunks.length * w ∧
    v.total w a.s2 = a.s2.toNat + (chunks.length * w) * a.s1.toNat + weightedSum chunks.flatten ∧
    v.total w a.s2 ≤
      (chunks.length * w + 1) * 65520 + 255 * ((chunks.length * w) * (chunks.length * w + 1)) / 2 ∧
    v.total w a.s2 ≤ 4294690200 ∧
    v.total w a.s2 = (chunks.flatten.foldl Accum.stepRaw a).s2.toNat

/-! ## The invariant -/

/-- The invariant holds of the machine right after reset (10_state.md R40, 70_reset_and_hazards.md R261). -/
def Obligations.ResetMeetsTheInvariant : Prop := State.reset.Inv

/-- 44_sequencer.md R211, 10_state.md R24, R34, R38, 40_lifecycle.md R105: from every state that meets the invariant,
every step, whoever moves (Engine, Host, reset), gives a state that meets it. -/
def Obligations.StepKeepsTheInvariant : Prop := ∀ s t : State, s.Inv → step s = .next t → t.Inv

/-- 44_sequencer.md R211 and R212: from every state that meets the invariant no step ends in a model-only fault: no
register without a value is read, no assertion fails, no reserved word is met, UPC stays inside SCHED. -/
def Obligations.NoStepFaultsUnderTheInvariant : Prop := ∀ (s : State) (f : Fault), s.Inv → step s ≠ .fault f

/-! ## Whole operations -/

/-- 44_sequencer.md R191 and R210: an accepted operation whose buffer is readable and visible, with nothing interfering,
ends after exactly the Engine steps of its schedule with DONE and RESULT = Adler32 of the buffer, whatever the tier, the
width W and the length; nothing else has changed. "Nothing interfering" is the premise turns = [] of `Accepted`, the
model's default order (log 9, DESIGN CHOICE). -/
def Obligations.OperationComputesAdler32 : Prop :=
  ∀ (i : Instr) (s s1 : State), Accepted i s s1 →
    s.Readable s.eng.srcAddr s.eng.length.toNat → s.Visible s.eng.srcAddr s.eng.length.toNat →
    Host.Core.run Sys2Proof.core
        (scheduleLength s.eng.build (selectTier s.eng.build s1.eng.ctrlEngine s.eng.length.toNat)
          s.eng.length.toNat) s1 =
      .next { s1 with
        eng := { s1.eng with
          status := { busy := false, done := true, err := false, errcode := 0 }
          result := adler32 (s.mem.bytes s.eng.srcAddr s.eng.length.toNat)
          acc := none
          blk := none
          seq := none } }

/-- 44_sequencer.md R195 and 40_lifecycle.md R107: LENGTH = 0 is accepted with any SRC_ADDR and any ENGINE the build
accepts, and two Engine steps later the operation has ended with RESULT = 0x00000001; no platform answer is asked for.
The premise turns = [], by which the default order gives the Engine both steps, is the model's (log 9, DESIGN CHOICE). -/
def Obligations.ZeroLengthReturnsTheSeed : Prop :=
  ∀ (i : Instr) (s : State), i.isCommand = true → s.eng.status.busy = false → s.turns = [] → s.eng.length = 0 →
    s.eng.build.legal = true → (s.eng.build.hasVector = true ∨ ∀ x, i ≠ .startVector x) →
    ∃ s1 q t, exec i s = .next s1 ∧ s1.eng.status.busy = true ∧ s1.eng.seq = some q ∧
      q.sched = [0x01000000, 0x08000000] ∧ Host.Core.run Sys2Proof.core 2 s1 = .next t ∧
      t.eng.status = { busy := false, done := true, err := false, errcode := 0 } ∧ t.eng.result = 0x00000001

/-- 44_sequencer.md R198 and R213: two accepted operations over buffers with the same bytes end with the same RESULT,
whatever the commands, builds, tiers, addresses and earlier state. `Accepted` has the premise turns = [] (log 9, DESIGN
CHOICE). -/
def Obligations.ResultDependsOnTheBytesAlone : Prop :=
  ∀ (i j : Instr) (s s1 r r1 : State), Accepted i s s1 → Accepted j r r1 →
    s.Readable s.eng.srcAddr s.eng.length.toNat → s.Visible s.eng.srcAddr s.eng.length.toNat →
    r.Readable r.eng.srcAddr r.eng.length.toNat → r.Visible r.eng.srcAddr r.eng.length.toNat →
    s.mem.bytes s.eng.srcAddr s.eng.length.toNat = r.mem.bytes r.eng.srcAddr r.eng.length.toNat →
    ∃ k l t u, Host.Core.run Sys2Proof.core k s1 = .next t ∧ Host.Core.run Sys2Proof.core l r1 = .next u ∧
      t.eng.status.done = true ∧ u.eng.status.done = true ∧ t.eng.result = u.eng.result

/-- 60_exceptions.md R240, R236: an accepted operation over a buffer whose lowest address that does not answer is refused
ends with ERR, code 0x1 and FAULT_ADDR that address, whatever the engine; RESULT keeps its value. `Accepted` has the
premise turns = [] (log 9, DESIGN CHOICE), and the platform's answers do not change (log 3, DESIGN CHOICE). -/
def Obligations.FaultAddressIsTheLowestRefused : Prop :=
  ∀ (i : Instr) (s s1 : State) (k : Nat), Accepted i s s1 → k < s.eng.length.toNat →
    s.Readable s.eng.srcAddr k → s.platform.answer (byteAddr s.eng.srcAddr k) = .refused →
    ∃ m t,
      m ≤ scheduleLength s.eng.build (selectTier s.eng.build s1.eng.ctrlEngine s.eng.length.toNat)
        s.eng.length.toNat ∧
      Host.Core.run Sys2Proof.core m s1 = .next t ∧
      t.eng = { s1.eng with
        status := { busy := false, done := false, err := true, errcode := 1 }
        faultAddr := byteAddr s.eng.srcAddr k
        acc := none
        blk := none
        seq := none } ∧
      t.eng.result = s.eng.result

/-- 44_sequencer.md R207 (70_reset_and_hazards.md R281): from any BUSY state that meets the invariant, where reads
complete and the Engine gets its turns, BUSY is 0 after at most as many steps as the schedule has left, and by PACK or an
error. The premise turns = [] gives the Engine its turns (log 9, DESIGN CHOICE). -/
def Obligations.OperationTerminates : Prop :=
  ∀ (s : State) (q : Sequencer), s.Inv → s.turns = [] → s.eng.status.busy = true → s.eng.seq = some q →
    s.ReadsComplete →
    ∃ k t, k ≤ q.sched.length - q.upc ∧ Host.Core.run Sys2Proof.core k s = .next t ∧ t.eng.status.busy = false ∧
      (t.eng.status.done = true ∨ t.eng.status.err = true)
end

