-- ==== Sys2Proof/Laws/Config.lean ====
section
/-! SUPPORT. The fixed parameters as numerals, for arithmetic. -/

namespace Sys2Proof

@[simp] theorem Config.modulus_eq : Config.modulus = 65521 := rfl
@[simp] theorem Config.nmax_eq : Config.nmax = 5552 := rfl
@[simp] theorem Config.batchedMin_eq : Config.batchedMin = 16 := rfl
@[simp] theorem Build.vectorMin_eq (b : Build) : b.vectorMin = b.w := rfl

/-- `u32` keeps a value below 2^32. -/
theorem u32_toNat {n : Nat} (h : n < 4294967296) : (u32 n).toNat = n := by simp [u32]; omega

/-- `u32` keeps a remainder modulo MOD. -/
@[simp] theorem u32_mod_toNat (n : Nat) : (u32 (n % 65521)).toNat = n % 65521 := u32_toNat (by omega)

end Sys2Proof
end

