-- ==== Sys2Proof/Laws/Decode.lean ====
section
/-! SUPPORT. What the decoder answers on the words of the table. -/

namespace Sys2Proof

/-- The word of a micro-op decodes to it. -/
theorem decodeUop_encode (i : Instr) (h : i.isCommand = false) : decodeUop (encode i) = .ok i := by
  cases i <;> first | rfl | (simp [Instr.isCommand] at h)

/-- What `decodeUop` answers is a micro-op. -/
theorem decodeUop_isCommand {w : Word} {i : Instr} (h : decodeUop w = .ok i) : i.isCommand = false := by
  unfold decodeUop at h
  split at h
  · cases h
  · split at h <;> first | (cases h; rfl) | cases h

/-- What `decodeCmd` answers is a command. -/
theorem decodeCmd_isCommand {w : Word} {i : Instr} (h : decodeCmd w = .ok i) : i.isCommand = true := by
  unfold decodeCmd at h
  split at h
  · split at h <;> (cases h; rfl)
  · cases h

/-- `decodeCmd` answers exactly where START is set. -/
theorem decodeCmd_startOf {w : Word} {i : Instr} (h : decodeCmd w = .ok i) : startOf w = true := by
  unfold decodeCmd at h
  split at h
  · assumption
  · cases h

/-- The bits of a CMD word built from its fields. -/
theorem startOf_cmdWord (x : BitVec 29) (g : BitVec 2) : startOf (cmdWord x g) = true := by
  show BitVec.getLsbD (x ++ (g ++ 1#1)) 0 = true
  rw [BitVec.getLsbD_append, BitVec.getLsbD_append]
  rfl

end Sys2Proof
end

