-- ==== Sys2Proof/Laws/Operands.lean ====
section
/-! SUPPORT. The arithmetic of the micro-ops as numbers, and the sums of a list of bytes. -/

namespace Sys2Proof.Machine

/-- Two pairs with the same numbers are equal. -/
theorem Accum.eq_of_toNat {a b : Accum} (h1 : a.s1.toNat = b.s1.toNat) (h2 : a.s2.toNat = b.s2.toNat) : a = b := by
  obtain ⟨a1, a2⟩ := a
  obtain ⟨b1, b2⟩ := b
  congr 1 <;> exact BitVec.eq_of_toNat_eq ‹_›

@[simp] theorem Accum.stepReduced_s1 (a : Accum) (d : Byte) :
    (a.stepReduced d).s1.toNat = (a.s1.toNat + d.toNat) % 65521 := u32_mod_toNat _
@[simp] theorem Accum.stepReduced_s2 (a : Accum) (d : Byte) :
    (a.stepReduced d).s2.toNat = (a.s2.toNat + (a.s1.toNat + d.toNat) % 65521) % 65521 := u32_mod_toNat _
@[simp] theorem Accum.stepRaw_s1 (a : Accum) (d : Byte) :
    (a.stepRaw d).s1.toNat = (a.s1.toNat + d.toNat) % 2 ^ 32 := by simp [Accum.stepRaw, u32]
@[simp] theorem Accum.stepRaw_s2 (a : Accum) (d : Byte) :
    (a.stepRaw d).s2.toNat = (a.s2.toNat + (a.s1.toNat + d.toNat) % 2 ^ 32) % 2 ^ 32 := by simp [Accum.stepRaw, u32]
@[simp] theorem Accum.reduced_s1 (a : Accum) : a.reduced.s1.toNat = a.s1.toNat % 65521 := u32_mod_toNat _
@[simp] theorem Accum.reduced_s2 (a : Accum) : a.reduced.s2.toNat = a.s2.toNat % 65521 := u32_mod_toNat _
@[simp] theorem Block.reconciled_s1 (v : Block) (w : Nat) (s2 : Word) :
    (v.reconciled w s2).s1.toNat = (v.s1e.toNat + v.bs1.toNat) % 65521 := u32_mod_toNat _
@[simp] theorem Block.reconciled_s2 (v : Block) (w : Nat) (s2 : Word) :
    (v.reconciled w s2).s2.toNat = v.total w s2 % 65521 := u32_mod_toNat _

theorem byteSum_append (xs ys : List Byte) : byteSum (xs ++ ys) = byteSum xs + byteSum ys := by
  induction xs with
  | nil => simp [byteSum]
  | cons x xs ih => simp only [List.cons_append, byteSum, ih]; omega

theorem weightedSum_append (xs ys : List Byte) :
    weightedSum (xs ++ ys) = weightedSum xs + ys.length * byteSum xs + weightedSum ys := by
  induction xs with
  | nil => simp [weightedSum, byteSum]
  | cons x xs ih => simp only [List.cons_append, weightedSum, byteSum, ih, List.length_append]; ring

theorem byteSum_le (xs : List Byte) : byteSum xs ≤ 255 * xs.length := by
  induction xs with
  | nil => simp [byteSum]
  | cons x xs ih => simp only [byteSum, List.length_cons]; have := x.isLt; omega

theorem two_weightedSum_le (xs : List Byte) : 2 * weightedSum xs ≤ 255 * (xs.length * (xs.length + 1)) := by
  induction xs with
  | nil => simp [weightedSum]
  | cons x xs ih =>
    simp only [weightedSum, List.length_cons]
    have hx : x.toNat ≤ 255 := by have := x.isLt; omega
    have : (xs.length + 1) * x.toNat ≤ (xs.length + 1) * 255 := Nat.mul_le_mul_left _ hx
    nlinarith

theorem chunkSum_eq_byteSum (c : List Byte) : chunkSum c = byteSum c := by
  unfold chunkSum
  induction c with
  | nil => rfl
  | cons x c ih => simp [byteSum, ih]

end Sys2Proof.Machine
end

