-- ==== Sys2Proof/Laws/State.lean ====
section
/-! SUPPORT. One lemma per field and update of the state records, each true by rfl, so that no proof unfolds an
update. -/

namespace Sys2Proof.Machine

/-! ### Sequencer -/

@[simp] theorem Sequencer.consume_base (q : Sequencer) (k : Nat) : (q.consume k).base = q.base := rfl
@[simp] theorem Sequencer.consume_n (q : Sequencer) (k : Nat) : (q.consume k).n = q.n := rfl
@[simp] theorem Sequencer.consume_ptr (q : Sequencer) (k : Nat) : (q.consume k).ptr = q.ptr + u32 k := rfl
@[simp] theorem Sequencer.consume_eff (q : Sequencer) (k : Nat) : (q.consume k).eff = q.eff := rfl
@[simp] theorem Sequencer.consume_sched (q : Sequencer) (k : Nat) : (q.consume k).sched = q.sched := rfl
@[simp] theorem Sequencer.consume_upc (q : Sequencer) (k : Nat) : (q.consume k).upc = q.upc := rfl
@[simp] theorem Sequencer.consume_raced (q : Sequencer) (k : Nat) : (q.consume k).raced = q.raced := rfl

@[simp] theorem Sequencer.advance_base (q : Sequencer) : (q.advance).base = q.base := rfl
@[simp] theorem Sequencer.advance_n (q : Sequencer) : (q.advance).n = q.n := rfl
@[simp] theorem Sequencer.advance_ptr (q : Sequencer) : (q.advance).ptr = q.ptr := rfl
@[simp] theorem Sequencer.advance_eff (q : Sequencer) : (q.advance).eff = q.eff := rfl
@[simp] theorem Sequencer.advance_sched (q : Sequencer) : (q.advance).sched = q.sched := rfl
@[simp] theorem Sequencer.advance_upc (q : Sequencer) : (q.advance).upc = q.upc + 1 := rfl
@[simp] theorem Sequencer.advance_raced (q : Sequencer) : (q.advance).raced = q.raced := rfl

/-! ### Engine -/

@[simp] theorem Engine.discard_build (e : Engine) : (e.discard).build = e.build := rfl
@[simp] theorem Engine.discard_ctrlEngine (e : Engine) : (e.discard).ctrlEngine = e.ctrlEngine := rfl
@[simp] theorem Engine.discard_status (e : Engine) : (e.discard).status = e.status := rfl
@[simp] theorem Engine.discard_srcAddr (e : Engine) : (e.discard).srcAddr = e.srcAddr := rfl
@[simp] theorem Engine.discard_length (e : Engine) : (e.discard).length = e.length := rfl
@[simp] theorem Engine.discard_result (e : Engine) : (e.discard).result = e.result := rfl
@[simp] theorem Engine.discard_faultAddr (e : Engine) : (e.discard).faultAddr = e.faultAddr := rfl
@[simp] theorem Engine.discard_acc (e : Engine) : (e.discard).acc = none := rfl
@[simp] theorem Engine.discard_blk (e : Engine) : (e.discard).blk = none := rfl
@[simp] theorem Engine.discard_seq (e : Engine) : (e.discard).seq = none := rfl

@[simp] theorem Engine.terminate_build (e : Engine) (c : ErrorCause) : (e.terminate c).build = e.build := rfl
@[simp] theorem Engine.terminate_ctrlEngine (e : Engine) (c : ErrorCause) : (e.terminate c).ctrlEngine = e.ctrlEngine := rfl
@[simp] theorem Engine.terminate_status (e : Engine) (c : ErrorCause) : (e.terminate c).status = Status.failed c := rfl
@[simp] theorem Engine.terminate_srcAddr (e : Engine) (c : ErrorCause) : (e.terminate c).srcAddr = e.srcAddr := rfl
@[simp] theorem Engine.terminate_length (e : Engine) (c : ErrorCause) : (e.terminate c).length = e.length := rfl
@[simp] theorem Engine.terminate_result (e : Engine) (c : ErrorCause) : (e.terminate c).result = e.result := rfl
@[simp] theorem Engine.terminate_faultAddr (e : Engine) (c : ErrorCause) : (e.terminate c).faultAddr = c.faultAddr e.faultAddr := rfl
@[simp] theorem Engine.terminate_acc (e : Engine) (c : ErrorCause) : (e.terminate c).acc = none := rfl
@[simp] theorem Engine.terminate_blk (e : Engine) (c : ErrorCause) : (e.terminate c).blk = none := rfl
@[simp] theorem Engine.terminate_seq (e : Engine) (c : ErrorCause) : (e.terminate c).seq = none := rfl

@[simp] theorem Engine.reject_build (e : Engine) (c : ErrorCause) : (e.reject c).build = e.build := rfl
@[simp] theorem Engine.reject_ctrlEngine (e : Engine) (c : ErrorCause) : (e.reject c).ctrlEngine = e.ctrlEngine := rfl
@[simp] theorem Engine.reject_status (e : Engine) (c : ErrorCause) : (e.reject c).status = Status.failed c := rfl
@[simp] theorem Engine.reject_srcAddr (e : Engine) (c : ErrorCause) : (e.reject c).srcAddr = e.srcAddr := rfl
@[simp] theorem Engine.reject_length (e : Engine) (c : ErrorCause) : (e.reject c).length = e.length := rfl
@[simp] theorem Engine.reject_result (e : Engine) (c : ErrorCause) : (e.reject c).result = e.result := rfl
@[simp] theorem Engine.reject_faultAddr (e : Engine) (c : ErrorCause) : (e.reject c).faultAddr = e.faultAddr := rfl
@[simp] theorem Engine.reject_acc (e : Engine) (c : ErrorCause) : (e.reject c).acc = e.acc := rfl
@[simp] theorem Engine.reject_blk (e : Engine) (c : ErrorCause) : (e.reject c).blk = e.blk := rfl
@[simp] theorem Engine.reject_seq (e : Engine) (c : ErrorCause) : (e.reject c).seq = e.seq := rfl

@[simp] theorem Engine.accept_build (e : Engine) : (e.accept).build = e.build := rfl
@[simp] theorem Engine.accept_ctrlEngine (e : Engine) : (e.accept).ctrlEngine = e.ctrlEngine := rfl
@[simp] theorem Engine.accept_status (e : Engine) : (e.accept).status = Status.started := rfl
@[simp] theorem Engine.accept_srcAddr (e : Engine) : (e.accept).srcAddr = e.srcAddr := rfl
@[simp] theorem Engine.accept_length (e : Engine) : (e.accept).length = e.length := rfl
@[simp] theorem Engine.accept_result (e : Engine) : (e.accept).result = e.result := rfl
@[simp] theorem Engine.accept_faultAddr (e : Engine) : (e.accept).faultAddr = e.faultAddr := rfl
@[simp] theorem Engine.accept_acc (e : Engine) : (e.accept).acc = e.acc := rfl
@[simp] theorem Engine.accept_blk (e : Engine) : (e.accept).blk = e.blk := rfl
@[simp] theorem Engine.accept_seq (e : Engine) : (e.accept).seq = some e.newSequencer := rfl

@[simp] theorem Engine.blockReset_build (e : Engine) : (e.blockReset).build = e.build := rfl
@[simp] theorem Engine.blockReset_ctrlEngine (e : Engine) : (e.blockReset).ctrlEngine = 0 := rfl
@[simp] theorem Engine.blockReset_status (e : Engine) : (e.blockReset).status = Status.reset := rfl
@[simp] theorem Engine.blockReset_srcAddr (e : Engine) : (e.blockReset).srcAddr = 0 := rfl
@[simp] theorem Engine.blockReset_length (e : Engine) : (e.blockReset).length = 0 := rfl
@[simp] theorem Engine.blockReset_result (e : Engine) : (e.blockReset).result = 0 := rfl
@[simp] theorem Engine.blockReset_faultAddr (e : Engine) : (e.blockReset).faultAddr = 0 := rfl
@[simp] theorem Engine.blockReset_acc (e : Engine) : (e.blockReset).acc = none := rfl
@[simp] theorem Engine.blockReset_blk (e : Engine) : (e.blockReset).blk = none := rfl
@[simp] theorem Engine.blockReset_seq (e : Engine) : (e.blockReset).seq = none := rfl

@[simp] theorem Engine.newSequencer_base (e : Engine) : e.newSequencer.base = e.srcAddr := rfl
@[simp] theorem Engine.newSequencer_n (e : Engine) : e.newSequencer.n = e.length := rfl
@[simp] theorem Engine.newSequencer_ptr (e : Engine) : e.newSequencer.ptr = e.srcAddr := rfl
@[simp] theorem Engine.newSequencer_eff (e : Engine) :
    e.newSequencer.eff = selectTier e.build e.ctrlEngine e.length.toNat := rfl
@[simp] theorem Engine.newSequencer_sched (e : Engine) :
    e.newSequencer.sched = schedule e.build (selectTier e.build e.ctrlEngine e.length.toNat) e.length.toNat := rfl
@[simp] theorem Engine.newSequencer_upc (e : Engine) : e.newSequencer.upc = 0 := rfl
@[simp] theorem Engine.newSequencer_raced (e : Engine) : e.newSequencer.raced = [] := rfl

/-! ### State -/

@[simp] theorem State.raise_eng (s : State) (c : ErrorCause) : (s.raise c).eng = s.eng.terminate c := rfl
@[simp] theorem State.raise_others (s : State) (c : ErrorCause) : (s.raise c).others = s.others := rfl
@[simp] theorem State.raise_mem (s : State) (c : ErrorCause) : (s.raise c).mem = s.mem := rfl
@[simp] theorem State.raise_platform (s : State) (c : ErrorCause) : (s.raise c).platform = s.platform := rfl
@[simp] theorem State.raise_uncleaned (s : State) (c : ErrorCause) : (s.raise c).uncleaned = s.uncleaned := rfl
@[simp] theorem State.raise_host (s : State) (c : ErrorCause) : (s.raise c).host = s.host := rfl
@[simp] theorem State.raise_turns (s : State) (c : ErrorCause) : (s.raise c).turns = s.turns := rfl
@[simp] theorem State.raise_draws (s : State) (c : ErrorCause) : (s.raise c).draws = s.draws := rfl
@[simp] theorem State.raise_lastRead (s : State) (c : ErrorCause) : (s.raise c).lastRead = s.lastRead := rfl

@[simp] theorem State.complete_eng (s : State) (e : Engine) : (s.complete e).eng = { e with seq := e.seq.map Sequencer.advance } := rfl
@[simp] theorem State.complete_others (s : State) (e : Engine) : (s.complete e).others = s.others := rfl
@[simp] theorem State.complete_mem (s : State) (e : Engine) : (s.complete e).mem = s.mem := rfl
@[simp] theorem State.complete_platform (s : State) (e : Engine) : (s.complete e).platform = s.platform := rfl
@[simp] theorem State.complete_uncleaned (s : State) (e : Engine) : (s.complete e).uncleaned = s.uncleaned := rfl
@[simp] theorem State.complete_host (s : State) (e : Engine) : (s.complete e).host = s.host := rfl
@[simp] theorem State.complete_turns (s : State) (e : Engine) : (s.complete e).turns = s.turns := rfl
@[simp] theorem State.complete_draws (s : State) (e : Engine) : (s.complete e).draws = s.draws := rfl
@[simp] theorem State.complete_lastRead (s : State) (e : Engine) : (s.complete e).lastRead = s.lastRead := rfl

@[simp] theorem State.answerRead_eng (s : State) (off : Nat) : (s.answerRead off).eng = s.eng := rfl
@[simp] theorem State.answerRead_others (s : State) (off : Nat) : (s.answerRead off).others = s.others := rfl
@[simp] theorem State.answerRead_mem (s : State) (off : Nat) : (s.answerRead off).mem = s.mem := rfl
@[simp] theorem State.answerRead_platform (s : State) (off : Nat) : (s.answerRead off).platform = s.platform := rfl
@[simp] theorem State.answerRead_uncleaned (s : State) (off : Nat) : (s.answerRead off).uncleaned = s.uncleaned := rfl
@[simp] theorem State.answerRead_host (s : State) (off : Nat) : (s.answerRead off).host = s.host := rfl
@[simp] theorem State.answerRead_turns (s : State) (off : Nat) : (s.answerRead off).turns = s.turns := rfl
@[simp] theorem State.answerRead_draws (s : State) (off : Nat) : (s.answerRead off).draws = s.draws := rfl
@[simp] theorem State.answerRead_lastRead (s : State) (off : Nat) : (s.answerRead off).lastRead = some (s.eng.readReg off) := rfl

@[simp] theorem State.resetTurn_eng (s : State) : (s.resetTurn).eng = s.eng.blockReset := rfl
@[simp] theorem State.resetTurn_others (s : State) : (s.resetTurn).others = s.others := rfl
@[simp] theorem State.resetTurn_mem (s : State) : (s.resetTurn).mem = s.mem := rfl
@[simp] theorem State.resetTurn_platform (s : State) : (s.resetTurn).platform = s.platform := rfl
@[simp] theorem State.resetTurn_uncleaned (s : State) : (s.resetTurn).uncleaned = s.uncleaned := rfl
@[simp] theorem State.resetTurn_host (s : State) : (s.resetTurn).host = s.host := rfl
@[simp] theorem State.resetTurn_turns (s : State) : (s.resetTurn).turns = s.turns := rfl
@[simp] theorem State.resetTurn_draws (s : State) : (s.resetTurn).draws = s.draws := rfl
@[simp] theorem State.resetTurn_lastRead (s : State) : (s.resetTurn).lastRead = s.lastRead := rfl

@[simp] theorem State.hostStore_eng (s : State) (addr : Word) (b : Byte) : (s.hostStore addr b).eng = s.eng.noteWrite addr.toNat := rfl
@[simp] theorem State.hostStore_others (s : State) (addr : Word) (b : Byte) : (s.hostStore addr b).others = s.others.map fun e => e.noteWrite addr.toNat := rfl
@[simp] theorem State.hostStore_mem (s : State) (addr : Word) (b : Byte) : (s.hostStore addr b).mem = s.mem.write addr.toNat b := rfl
@[simp] theorem State.hostStore_platform (s : State) (addr : Word) (b : Byte) : (s.hostStore addr b).platform = s.platform := rfl
@[simp] theorem State.hostStore_uncleaned (s : State) (addr : Word) (b : Byte) : (s.hostStore addr b).uncleaned = if s.platform.coherent then s.uncleaned else addAddr addr.toNat s.uncleaned := rfl
@[simp] theorem State.hostStore_host (s : State) (addr : Word) (b : Byte) : (s.hostStore addr b).host = s.host := rfl
@[simp] theorem State.hostStore_turns (s : State) (addr : Word) (b : Byte) : (s.hostStore addr b).turns = s.turns := rfl
@[simp] theorem State.hostStore_draws (s : State) (addr : Word) (b : Byte) : (s.hostStore addr b).draws = s.draws := rfl
@[simp] theorem State.hostStore_lastRead (s : State) (addr : Word) (b : Byte) : (s.hostStore addr b).lastRead = s.lastRead := rfl

@[simp] theorem State.hostClean_eng (s : State) (lo size : Nat) : (s.hostClean lo size).eng = s.eng.noteWrites (s.uncleaned.filter (inRange lo size)) := rfl
@[simp] theorem State.hostClean_others (s : State) (lo size : Nat) : (s.hostClean lo size).others = s.others.map fun e => e.noteWrites (s.uncleaned.filter (inRange lo size)) := rfl
@[simp] theorem State.hostClean_mem (s : State) (lo size : Nat) : (s.hostClean lo size).mem = s.mem := rfl
@[simp] theorem State.hostClean_platform (s : State) (lo size : Nat) : (s.hostClean lo size).platform = s.platform := rfl
@[simp] theorem State.hostClean_uncleaned (s : State) (lo size : Nat) : (s.hostClean lo size).uncleaned = s.uncleaned.filter fun a => !inRange lo size a := rfl
@[simp] theorem State.hostClean_host (s : State) (lo size : Nat) : (s.hostClean lo size).host = s.host := rfl
@[simp] theorem State.hostClean_turns (s : State) (lo size : Nat) : (s.hostClean lo size).turns = s.turns := rfl
@[simp] theorem State.hostClean_draws (s : State) (lo size : Nat) : (s.hostClean lo size).draws = s.draws := rfl
@[simp] theorem State.hostClean_lastRead (s : State) (lo size : Nat) : (s.hostClean lo size).lastRead = s.lastRead := rfl

/-! ### Updates with a case -/

@[simp] theorem State.startCommand_others (s : State) (engine : BitVec 2) : (s.startCommand engine).others = s.others := by
  unfold State.startCommand; split <;> rfl
@[simp] theorem State.startCommand_mem (s : State) (engine : BitVec 2) : (s.startCommand engine).mem = s.mem := by
  unfold State.startCommand; split <;> rfl
@[simp] theorem State.startCommand_platform (s : State) (engine : BitVec 2) : (s.startCommand engine).platform = s.platform := by
  unfold State.startCommand; split <;> rfl
@[simp] theorem State.startCommand_uncleaned (s : State) (engine : BitVec 2) : (s.startCommand engine).uncleaned = s.uncleaned := by
  unfold State.startCommand; split <;> rfl
@[simp] theorem State.startCommand_host (s : State) (engine : BitVec 2) : (s.startCommand engine).host = s.host := by
  unfold State.startCommand; split <;> rfl
@[simp] theorem State.startCommand_turns (s : State) (engine : BitVec 2) : (s.startCommand engine).turns = s.turns := by
  unfold State.startCommand; split <;> rfl
@[simp] theorem State.startCommand_draws (s : State) (engine : BitVec 2) : (s.startCommand engine).draws = s.draws := by
  unfold State.startCommand; split <;> rfl
@[simp] theorem State.startCommand_lastRead (s : State) (engine : BitVec 2) : (s.startCommand engine).lastRead = s.lastRead := by
  unfold State.startCommand; split <;> rfl

@[simp] theorem State.setEngine_others (s : State) (engine : BitVec 2) : (s.setEngine engine).others = s.others := by
  unfold State.setEngine; split <;> rfl
@[simp] theorem State.setEngine_mem (s : State) (engine : BitVec 2) : (s.setEngine engine).mem = s.mem := by
  unfold State.setEngine; split <;> rfl
@[simp] theorem State.setEngine_platform (s : State) (engine : BitVec 2) : (s.setEngine engine).platform = s.platform := by
  unfold State.setEngine; split <;> rfl
@[simp] theorem State.setEngine_uncleaned (s : State) (engine : BitVec 2) : (s.setEngine engine).uncleaned = s.uncleaned := by
  unfold State.setEngine; split <;> rfl
@[simp] theorem State.setEngine_host (s : State) (engine : BitVec 2) : (s.setEngine engine).host = s.host := by
  unfold State.setEngine; split <;> rfl
@[simp] theorem State.setEngine_turns (s : State) (engine : BitVec 2) : (s.setEngine engine).turns = s.turns := by
  unfold State.setEngine; split <;> rfl
@[simp] theorem State.setEngine_draws (s : State) (engine : BitVec 2) : (s.setEngine engine).draws = s.draws := by
  unfold State.setEngine; split <;> rfl
@[simp] theorem State.setEngine_lastRead (s : State) (engine : BitVec 2) : (s.setEngine engine).lastRead = s.lastRead := by
  unfold State.setEngine; split <;> rfl

@[simp] theorem State.focusOn_mem (s : State) (k : Nat) : (s.focusOn k).mem = s.mem := by
  unfold State.focusOn; split <;> rfl
@[simp] theorem State.focusOn_platform (s : State) (k : Nat) : (s.focusOn k).platform = s.platform := by
  unfold State.focusOn; split <;> rfl
@[simp] theorem State.focusOn_uncleaned (s : State) (k : Nat) : (s.focusOn k).uncleaned = s.uncleaned := by
  unfold State.focusOn; split <;> rfl
@[simp] theorem State.focusOn_host (s : State) (k : Nat) : (s.focusOn k).host = s.host := by
  unfold State.focusOn; split <;> rfl
@[simp] theorem State.focusOn_turns (s : State) (k : Nat) : (s.focusOn k).turns = s.turns := by
  unfold State.focusOn; split <;> rfl
@[simp] theorem State.focusOn_draws (s : State) (k : Nat) : (s.focusOn k).draws = s.draws := by
  unfold State.focusOn; split <;> rfl
@[simp] theorem State.focusOn_lastRead (s : State) (k : Nat) : (s.focusOn k).lastRead = s.lastRead := by
  unfold State.focusOn; split <;> rfl

@[simp] theorem Engine.start_build (e : Engine) : e.start.build = e.build := by
  unfold Engine.start; split_ifs <;> rfl
@[simp] theorem Engine.start_ctrlEngine (e : Engine) : e.start.ctrlEngine = e.ctrlEngine := by
  unfold Engine.start; split_ifs <;> rfl
@[simp] theorem Engine.start_srcAddr (e : Engine) : e.start.srcAddr = e.srcAddr := by
  unfold Engine.start; split_ifs <;> rfl
@[simp] theorem Engine.start_length (e : Engine) : e.start.length = e.length := by
  unfold Engine.start; split_ifs <;> rfl
@[simp] theorem Engine.start_result (e : Engine) : e.start.result = e.result := by
  unfold Engine.start; split_ifs <;> rfl
@[simp] theorem Engine.start_faultAddr (e : Engine) : e.start.faultAddr = e.faultAddr := by
  unfold Engine.start; split_ifs <;> rfl
@[simp] theorem Engine.start_acc (e : Engine) : e.start.acc = e.acc := by
  unfold Engine.start; split_ifs <;> rfl
@[simp] theorem Engine.start_blk (e : Engine) : e.start.blk = e.blk := by
  unfold Engine.start; split_ifs <;> rfl

@[simp] theorem Engine.noteWrite_build (e : Engine) (a : Nat) : (e.noteWrite a).build = e.build := by
  unfold Engine.noteWrite; split
  · split <;> rfl
  · rfl
@[simp] theorem Engine.noteWrite_ctrlEngine (e : Engine) (a : Nat) : (e.noteWrite a).ctrlEngine = e.ctrlEngine := by
  unfold Engine.noteWrite; split
  · split <;> rfl
  · rfl
@[simp] theorem Engine.noteWrite_status (e : Engine) (a : Nat) : (e.noteWrite a).status = e.status := by
  unfold Engine.noteWrite; split
  · split <;> rfl
  · rfl
@[simp] theorem Engine.noteWrite_srcAddr (e : Engine) (a : Nat) : (e.noteWrite a).srcAddr = e.srcAddr := by
  unfold Engine.noteWrite; split
  · split <;> rfl
  · rfl
@[simp] theorem Engine.noteWrite_length (e : Engine) (a : Nat) : (e.noteWrite a).length = e.length := by
  unfold Engine.noteWrite; split
  · split <;> rfl
  · rfl
@[simp] theorem Engine.noteWrite_result (e : Engine) (a : Nat) : (e.noteWrite a).result = e.result := by
  unfold Engine.noteWrite; split
  · split <;> rfl
  · rfl
@[simp] theorem Engine.noteWrite_faultAddr (e : Engine) (a : Nat) : (e.noteWrite a).faultAddr = e.faultAddr := by
  unfold Engine.noteWrite; split
  · split <;> rfl
  · rfl
@[simp] theorem Engine.noteWrite_acc (e : Engine) (a : Nat) : (e.noteWrite a).acc = e.acc := by
  unfold Engine.noteWrite; split
  · split <;> rfl
  · rfl
@[simp] theorem Engine.noteWrite_blk (e : Engine) (a : Nat) : (e.noteWrite a).blk = e.blk := by
  unfold Engine.noteWrite; split
  · split <;> rfl
  · rfl

@[simp] theorem Engine.noteWrites_build (e : Engine) (l : List Nat) : (e.noteWrites l).build = e.build := by
  unfold Engine.noteWrites
  induction l generalizing e with
  | nil => rfl
  | cons a l ih => simp [ih]
@[simp] theorem Engine.noteWrites_ctrlEngine (e : Engine) (l : List Nat) : (e.noteWrites l).ctrlEngine = e.ctrlEngine := by
  unfold Engine.noteWrites
  induction l generalizing e with
  | nil => rfl
  | cons a l ih => simp [ih]
@[simp] theorem Engine.noteWrites_status (e : Engine) (l : List Nat) : (e.noteWrites l).status = e.status := by
  unfold Engine.noteWrites
  induction l generalizing e with
  | nil => rfl
  | cons a l ih => simp [ih]
@[simp] theorem Engine.noteWrites_srcAddr (e : Engine) (l : List Nat) : (e.noteWrites l).srcAddr = e.srcAddr := by
  unfold Engine.noteWrites
  induction l generalizing e with
  | nil => rfl
  | cons a l ih => simp [ih]
@[simp] theorem Engine.noteWrites_length (e : Engine) (l : List Nat) : (e.noteWrites l).length = e.length := by
  unfold Engine.noteWrites
  induction l generalizing e with
  | nil => rfl
  | cons a l ih => simp [ih]
@[simp] theorem Engine.noteWrites_result (e : Engine) (l : List Nat) : (e.noteWrites l).result = e.result := by
  unfold Engine.noteWrites
  induction l generalizing e with
  | nil => rfl
  | cons a l ih => simp [ih]
@[simp] theorem Engine.noteWrites_faultAddr (e : Engine) (l : List Nat) : (e.noteWrites l).faultAddr = e.faultAddr := by
  unfold Engine.noteWrites
  induction l generalizing e with
  | nil => rfl
  | cons a l ih => simp [ih]
@[simp] theorem Engine.noteWrites_acc (e : Engine) (l : List Nat) : (e.noteWrites l).acc = e.acc := by
  unfold Engine.noteWrites
  induction l generalizing e with
  | nil => rfl
  | cons a l ih => simp [ih]
@[simp] theorem Engine.noteWrites_blk (e : Engine) (l : List Nat) : (e.noteWrites l).blk = e.blk := by
  unfold Engine.noteWrites
  induction l generalizing e with
  | nil => rfl
  | cons a l ih => simp [ih]

end Sys2Proof.Machine
end

