-- ==== Sys2Proof/Laws/Ops.lean ====
section
/-! SUPPORT. What each shared operation can do, said once: the guards (a register with a value, an assertion, the vector
tier), the memory port, and START. Later proofs cite these and do not unfold the operations. -/

namespace Sys2Proof.Machine

/-! ### The guards -/

@[simp] theorem withAccum_eq_next {s t : State} {k : Accum → Result} :
    withAccum s k = .next t ↔ ∃ a, s.eng.acc = some a ∧ k a = .next t := by
  unfold withAccum; cases s.eng.acc <;> simp

@[simp] theorem withBlock_eq_next {s t : State} {k : Block → Result} :
    withBlock s k = .next t ↔ ∃ v, s.eng.blk = some v ∧ k v = .next t := by
  unfold withBlock; cases s.eng.blk <;> simp

@[simp] theorem withSequencer_eq_next {s t : State} {k : Sequencer → Result} :
    withSequencer s k = .next t ↔ ∃ q, s.eng.seq = some q ∧ k q = .next t := by
  unfold withSequencer; cases s.eng.seq <;> simp

@[simp] theorem withVectorTier_eq_next {s t : State} {r : Result} :
    withVectorTier s r = .next t ↔ s.eng.build.hasVector = true ∧ r = .next t := by
  unfold withVectorTier; split <;> simp_all

@[simp] theorem asserting_eq_next {p : Bool} {t : State} {r : Result} :
    asserting p r = .next t ↔ p = true ∧ r = .next t := by
  unfold asserting; split <;> simp_all

theorem withAccum_some {s : State} {a : Accum} (k : Accum → Result) (h : s.eng.acc = some a) : withAccum s k = k a := by
  simp [withAccum, h]

theorem withBlock_some {s : State} {v : Block} (k : Block → Result) (h : s.eng.blk = some v) : withBlock s k = k v := by
  simp [withBlock, h]

theorem withSequencer_some {s : State} {q : Sequencer} (k : Sequencer → Result) (h : s.eng.seq = some q) :
    withSequencer s k = k q := by
  simp [withSequencer, h]

theorem withVectorTier_true {s : State} (r : Result) (h : s.eng.build.hasVector = true) : withVectorTier s r = r := by
  simp [withVectorTier, h]

theorem asserting_true {p : Bool} (r : Result) (h : p = true) : asserting p r = r := by simp [asserting, h]

/-- The accumulator pair is reduced exactly when both sums are below MOD. -/
theorem Accum.isReduced_iff (a : Accum) : a.isReduced = true ↔ a.s1.toNat < 65521 ∧ a.s2.toNat < 65521 := by
  simp [Accum.isReduced]

/-! ### What an operation over a raced buffer leaves -/

theorem Accum.reduced_isReduced (a : Accum) : a.reduced.isReduced = true := by
  rw [Accum.isReduced_iff, Accum.reduced_s1, Accum.reduced_s2]; omega

theorem Accum.free_isReduced (d : Nat) : (Accum.free d).isReduced = true := Accum.reduced_isReduced _

theorem Engine.isRaced_some {e : Engine} {q : Sequencer} (h : e.seq = some q) : e.isRaced = !q.raced.isEmpty := by
  simp [Engine.isRaced, h]

theorem Engine.isRaced_none {e : Engine} (h : e.seq = none) : e.isRaced = false := by simp [Engine.isRaced, h]

/-- Whatever happened to the buffer, PACK packs a reduced pair. -/
theorem State.finalPair_isReduced (s : State) {a : Accum} (h : a.isReduced = true) :
    (s.finalPair a).isReduced = true := by
  unfold State.finalPair; split
  · exact Accum.free_isReduced _
  · exact h

/-- Without a write into the running buffer PACK packs S1 and S2 and draws nothing. -/
theorem State.finalPair_settled {s : State} (h : s.eng.isRaced = false) (a : Accum) :
    s.finalPair a = a ∧ s.drawsAfterPack = s.draws := by
  simp [State.finalPair, State.drawsAfterPack, h]

/-! ### The memory port -/

/-- After a read there are three ways on: the read completed, it raised ReadFault, or it is still pending. -/
theorem withReply_eq_next {α : Type} {s t : State} {r : Reply α} {k : α → State → Result} :
    withReply s r k = .next t ↔
      (∃ v d, r = .got v d ∧ k v { s with draws := d } = .next t) ∨
      (∃ a, r = .refused a ∧ t = s.raise (.readFault a)) ∨ (r = .silent ∧ t = s) := by
  cases r <;> simp [withReply, eq_comm]

/-- A read completes exactly where the platform answers. -/
theorem State.memRead_eq_got {s : State} {a : Word} {d d' : Nat} {b : Byte} :
    s.memRead a d = .got b d' ↔ s.platform.answer a = .answers ∧ b = s.readValue a d ∧ d' = s.drawsAfter a d := by
  unfold State.memRead; cases s.platform.answer a <;> simp [eq_comm]

/-- A read is refused exactly where the platform refuses, at the address itself. -/
theorem State.memRead_eq_refused {s : State} {a r : Word} {d : Nat} :
    s.memRead a d = .refused r ↔ s.platform.answer a = .refused ∧ r = a := by
  unfold State.memRead; cases s.platform.answer a <;> simp [eq_comm]

/-- A read is pending exactly where the platform neither answers nor refuses. -/
theorem State.memRead_eq_silent {s : State} {a : Word} {d : Nat} :
    s.memRead a d = .silent ↔ s.platform.answer a = .silent := by
  unfold State.memRead; cases s.platform.answer a <;> simp

/-- A completed read that is no draw brings what memory holds and draws nothing. -/
theorem State.readValue_settled {s : State} {a : Word} {d : Nat} (h : s.isDraw a = false) :
    s.readValue a d = s.mem.read a.toNat ∧ s.drawsAfter a d = d := by
  simp [State.readValue, State.drawsAfter, h]

theorem byteAddr_zero (base : Word) : byteAddr base 0 = base := by simp [byteAddr]

theorem byteAddr_succ (base : Word) (k : Nat) : byteAddr (base + 1) k = byteAddr base (k + 1) := by
  simp only [byteAddr, u32, BitVec.ofNat_add, BitVec.add_assoc, BitVec.add_comm (1 : Word)]
  rfl

/-- `n` reads that all complete bring `n` bytes; each that is no draw is what memory holds. -/
theorem State.memReads_got (s : State) :
    ∀ (n : Nat) (a : Word) (d : Nat), (∀ k, k < n → s.platform.answer (byteAddr a k) = .answers) →
      ∃ bs d', s.memReads n a d = .got bs d' ∧ bs.length = n ∧
        (∀ k, k < n → s.isDraw (byteAddr a k) = false → bs[k]? = some (s.mem.read (byteAddr a k).toNat)) ∧
        ((∀ k, k < n → s.isDraw (byteAddr a k) = false) → d' = d) := by
  intro n
  induction n with
  | zero => intro a d _; exact ⟨[], d, rfl, rfl, by simp, by simp⟩
  | succ n ih =>
    intro a d h
    obtain ⟨bs, d', h1, h2, h3, h4⟩ := ih (a + 1) (s.drawsAfter a d) fun k hk => by
      rw [byteAddr_succ]; exact h (k + 1) (by omega)
    have h0 := h 0 (by omega)
    rw [byteAddr_zero] at h0
    refine ⟨s.readValue a d :: bs, d', by simp only [State.memReads, State.memRead, h0, h1], by simp [h2], ?_, ?_⟩
    · intro k hk hdraw
      cases k with
      | zero => rw [byteAddr_zero] at hdraw ⊢; simp [(State.readValue_settled hdraw).1]
      | succ k => rw [← byteAddr_succ] at hdraw ⊢; simpa using h3 k (by omega) hdraw
    · intro hall
      have hd := hall 0 (by omega)
      rw [byteAddr_zero] at hd
      rw [h4 fun k hk => by rw [byteAddr_succ]; exact hall (k + 1) (by omega), (State.readValue_settled hd).2]

/-- The first address that does not complete decides what `n` reads answer. -/
theorem State.memReads_stops (s : State) :
    ∀ (n : Nat) (a : Word) (d : Nat) (k : Nat), k < n →
      (∀ j, j < k → s.platform.answer (byteAddr a j) = .answers) →
      (s.platform.answer (byteAddr a k) = .refused → s.memReads n a d = .refused (byteAddr a k)) ∧
      (s.platform.answer (byteAddr a k) = .silent → s.memReads n a d = .silent) ∧
      (s.platform.answer (byteAddr a k) = .sideEffects → s.memReads n a d = .sideEffects) := by
  intro n
  induction n with
  | zero => intro a d k hk; omega
  | succ n ih =>
    intro a d k hk h
    cases k with
    | zero =>
      rw [byteAddr_zero]
      refine ⟨?_, ?_, ?_⟩ <;> intro hr <;> simp [State.memReads, State.memRead, hr]
    | succ k =>
      have h0 := h 0 (by omega)
      rw [byteAddr_zero] at h0
      have := ih (a + 1) (s.drawsAfter a d) k (by omega) fun j hj => by
        rw [byteAddr_succ]; exact h (j + 1) (by omega)
      rw [byteAddr_succ] at this
      refine ⟨?_, ?_, ?_⟩ <;> intro hr
      · simp only [State.memReads, State.memRead, h0, this.1 hr]
      · simp only [State.memReads, State.memRead, h0, this.2.1 hr]
      · simp only [State.memReads, State.memRead, h0, this.2.2 hr]

/-- What completed reads bring has the length asked for. -/
theorem State.memReads_length (s : State) :
    ∀ (n : Nat) (a : Word) (d : Nat) (bs : List Byte) (d' : Nat), s.memReads n a d = .got bs d' → bs.length = n := by
  intro n
  induction n with
  | zero => intro a d bs d' h; cases h; rfl
  | succ n ih =>
    intro a d bs d' h
    simp only [State.memReads] at h
    split at h
    · split at h
      · cases h; simp [ih _ _ _ _ ‹_›]
      all_goals cases h
    all_goals cases h

/-- The address that a refused list of reads names is refused. -/
theorem State.memReads_refused (s : State) :
    ∀ (n : Nat) (a : Word) (d : Nat) (r : Word), s.memReads n a d = .refused r → s.platform.answer r = .refused := by
  intro n
  induction n with
  | zero => intro a d r h; cases h
  | succ n ih =>
    intro a d r h
    simp only [State.memReads] at h
    split at h
    · split at h
      · cases h
      · cases h; exact ih _ _ _ ‹_›
      all_goals cases h
    · rename_i hr
      cases h
      obtain ⟨h1, rfl⟩ := State.memRead_eq_refused.1 hr
      exact h1
    all_goals cases h

/-! ### START -/

/-- What START can do: one of the two rejections, or acceptance (44_sequencer.md R193). -/
theorem Engine.start_cases (e : Engine) :
    (e.ctrlEngine = 0b10 ∧ e.build.hasVector = false ∧ e.start = e.reject .illegalEngine) ∨
    (2 ^ 32 < e.srcAddr.toNat + e.length.toNat ∧ 0 < e.length.toNat ∧ e.start = e.reject .rangeError) ∨
    ((e.ctrlEngine = 0b10 → e.build.hasVector = true) ∧
      (e.length.toNat = 0 ∨ e.srcAddr.toNat + e.length.toNat ≤ 2 ^ 32) ∧ e.start = e.accept) := by
  unfold Engine.start
  split_ifs with h1 h2
  · exact .inl ⟨h1.1, h1.2, rfl⟩
  · exact .inr (.inl ⟨h2.2, h2.1, rfl⟩)
  · refine .inr (.inr ⟨fun h => ?_, by omega, rfl⟩)
    cases hv : e.build.hasVector
    · exact absurd ⟨h, hv⟩ h1
    · rfl

/-- A command ignored while BUSY, else START with the new ENGINE (10_state.md R23, 44_sequencer.md R196). -/
theorem State.startCommand_busy {s : State} (engine : BitVec 2) (h : s.eng.status.busy = true) :
    s.startCommand engine = s := by
  simp [State.startCommand, h]

theorem State.startCommand_idle {s : State} (engine : BitVec 2) (h : s.eng.status.busy = false) :
    s.startCommand engine = { s with eng := Engine.start { s.eng with ctrlEngine := engine } } := by
  simp [State.startCommand, h]

/-- The value of ENGINE that a command's word carries (30_encoding.md R87). -/
def engineCode : Instr → BitVec 2
  | .startScalar _ => 0b00
  | .startBatched _ => 0b01
  | .startVector _ => 0b10
  | .startAuto _ => 0b11
  | .seed | .sstep | .rstep | .reduce | .vbegin | .vchunk | .vrecon | .pack => 0

/-- Every command is `startCommand` with its own ENGINE value. -/
theorem exec_command {i : Instr} (s : State) (h : i.isCommand = true) :
    exec i s = .next (s.startCommand (engineCode i)) := by
  cases i <;> first | rfl | (simp [Instr.isCommand] at h)

/-! ### Host writes to the buffer -/

theorem mem_addAddr {x a : Nat} {l : List Nat} : x ∈ addAddr a l ↔ x = a ∨ x ∈ l := by
  unfold addAddr; split <;> simp_all

theorem Sequencer.covers_iff (q : Sequencer) (a : Nat) :
    q.covers a = true ↔ q.base.toNat ≤ a ∧ a < q.base.toNat + q.n.toNat := by
  simp [Sequencer.covers]

theorem inRange_iff (lo size a : Nat) : inRange lo size a = true ↔ lo ≤ a ∧ a < lo + size := by simp [inRange]

theorem Engine.noteWrites_none {e : Engine} (h : e.seq = none) (l : List Nat) : e.noteWrites l = e := by
  induction l with
  | nil => rfl
  | cons a l ih => rw [Engine.noteWrites, List.foldl_cons, Engine.noteWrite, h]; exact ih

/-- Noting writes marks exactly those addresses that the run covers, and changes nothing else. -/
theorem Engine.noteWrites_some (l : List Nat) :
    ∀ {e : Engine} {q : Sequencer}, e.seq = some q →
      ∃ r, e.noteWrites l = { e with seq := some { q with raced := r } } ∧
        (∀ a, a ∈ r ↔ a ∈ q.raced ∨ (a ∈ l ∧ q.covers a = true)) ∧ ((∀ a ∈ l, q.covers a = false) → r = q.raced) := by
  induction l with
  | nil => intro e q h; exact ⟨q.raced, by rw [← h]; rfl, by simp, fun _ => rfl⟩
  | cons b l ih =>
    intro e q h
    show ∃ r, (e.noteWrite b).noteWrites l = _ ∧ _
    cases hc : q.covers b with
    | false =>
      rw [show e.noteWrite b = e by simp [Engine.noteWrite, h, hc]]
      obtain ⟨r, h1, h2, h3⟩ := ih h
      refine ⟨r, h1, fun a => ?_, fun ha => h3 fun a h => ha a (List.mem_cons_of_mem _ h)⟩
      rw [h2, List.mem_cons]
      constructor
      · tauto
      · rintro (h | ⟨rfl | h, h'⟩)
        · exact .inl h
        · rw [hc] at h'; cases h'
        · exact .inr ⟨h, h'⟩
    | true =>
      rw [show e.noteWrite b = { e with seq := some { q with raced := addAddr b q.raced } } by
        simp [Engine.noteWrite, h, hc]]
      obtain ⟨r, h1, h2, -⟩ := ih (e := { e with seq := some { q with raced := addAddr b q.raced } }) rfl
      refine ⟨r, h1, fun a => ?_, fun ha => ?_⟩
      · rw [h2, List.mem_cons, mem_addAddr]
        show (a = b ∨ a ∈ q.raced) ∨ (a ∈ l ∧ q.covers a = true) ↔ _
        constructor
        · rintro ((rfl | h) | h)
          · exact .inr ⟨.inl rfl, hc⟩
          · exact .inl h
          · exact .inr ⟨.inr h.1, h.2⟩
        · rintro (h | ⟨rfl | h, h'⟩)
          · exact .inl (.inr h)
          · exact .inl (.inl rfl)
          · exact .inr ⟨h, h'⟩
      · rw [ha b (List.mem_cons_self ..)] at hc; cases hc

/-- Which reads of the instance in focus are draws. -/
theorem State.isDraw_iff (s : State) (a : Word) :
    s.isDraw a = true ↔
      (s.platform.coherent = false ∧ a.toNat ∈ s.uncleaned) ∨ ∃ q, s.eng.seq = some q ∧ a.toNat ∈ q.raced := by
  unfold State.isDraw; cases s.eng.seq <;> simp

/-! ### Which instance -/

/-- The focus passes by an exchange: the instance in focus before is one of the others after. -/
theorem State.focusOn_cases (s : State) (k : Nat) :
    s.focusOn k = s ∨
      ∃ e, s.others[k]? = some e ∧ s.focusOn k = { s with eng := e, others := s.others.set k s.eng } := by
  unfold State.focusOn
  cases h : s.others[k]? with
  | none => exact .inl rfl
  | some e => exact .inr ⟨e, rfl, rfl⟩

/-- A Host address reaches the instance in focus, another instance, or none. -/
theorem State.attend_cases {s t : State} {addr : Word} (h : s.attend addr = some t) :
    t = s ∨ ∃ k, t = s.focusOn k := by
  unfold State.attend at h
  split at h
  · exact .inl (by simpa using h.symm)
  · split at h
    · exact .inr ⟨_, by simpa using h.symm⟩
    · cases h

/-- A Host access that gives a next state was a word access, at an offset that is a multiple of 4, of a block. -/
theorem State.access_eq_next {s t : State} {width : AccessWidth} {addr : Word} {k : Nat → State → Result}
    (h : s.access width addr k = .next t) :
    ∃ s1, s.attend addr = some s1 ∧ width = .word ∧ s1.eng.offsetOf addr % 4 = 0 ∧ k (s1.eng.offsetOf addr) s1 = .next t := by
  unfold State.access at h
  split at h
  · cases h
  · rename_i s1 hs
    split at h
    · rename_i hc; exact ⟨s1, hs, hc.1, hc.2, h⟩
    · cases h

end Sys2Proof.Machine
end

