-- ==== Sys2Proof/Laws/Exec.lean ====
section
/-! SUPPORT. What each micro-op can do when it gives a next state, said once per instruction. Later proofs cite these and
do not unfold a meaning. A command is `exec_command` (Laws/Ops.lean). -/

namespace Sys2Proof.Machine

/-- The completed state of a micro-op that read one byte. -/
abbrev State.afterByte (s : State) (d : Nat) (a : Accum) (q : Sequencer) : State :=
  { s with draws := d, eng := { s.eng with acc := some a, seq := some (q.consume 1).advance } }

/-- The completed state of VCHUNK. -/
abbrev State.afterChunk (s : State) (d : Nat) (v : Block) (q : Sequencer) : State :=
  { s with draws := d, eng := { s.eng with blk := some v, seq := some (q.consume s.eng.build.w).advance } }

theorem exec_seed (s : State) : exec .seed s = .next (s.complete { s.eng with acc := some { s1 := 1, s2 := 0 } }) := rfl

/-- SSTEP: the read completes, or it raises ReadFault, or it is still pending. -/
theorem exec_sstep_next {s t : State} (h : exec .sstep s = .next t) :
    ∃ a q, s.eng.acc = some a ∧ s.eng.seq = some q ∧
      ((∃ b d, s.memRead q.ptr s.draws = .got b d ∧ t = s.afterByte d (a.stepReduced b) q) ∨
        (s.platform.answer q.ptr = .refused ∧ t = s.raise (.readFault q.ptr)) ∨
        (s.platform.answer q.ptr = .silent ∧ t = s)) := by
  simp only [exec, execSstep, withAccum_eq_next, withSequencer_eq_next, withReply_eq_next] at h
  obtain ⟨a, ha, q, hq, ⟨b, d, hr, h⟩ | ⟨r, hr, h⟩ | ⟨hr, h⟩⟩ := h
  · cases h; exact ⟨a, q, ha, hq, .inl ⟨b, d, hr, rfl⟩⟩
  · obtain ⟨h1, rfl⟩ := State.memRead_eq_refused.1 hr; exact ⟨a, q, ha, hq, .inr (.inl ⟨h1, h⟩)⟩
  · exact ⟨a, q, ha, hq, .inr (.inr ⟨State.memRead_eq_silent.1 hr, h⟩)⟩

/-- RSTEP: the read completes, or it raises ReadFault, or it is still pending. -/
theorem exec_rstep_next {s t : State} (h : exec .rstep s = .next t) :
    ∃ a q, s.eng.acc = some a ∧ s.eng.seq = some q ∧
      ((∃ b d, s.memRead q.ptr s.draws = .got b d ∧ t = s.afterByte d (a.stepRaw b) q) ∨
        (s.platform.answer q.ptr = .refused ∧ t = s.raise (.readFault q.ptr)) ∨
        (s.platform.answer q.ptr = .silent ∧ t = s)) := by
  simp only [exec, execRstep, withAccum_eq_next, withSequencer_eq_next, withReply_eq_next] at h
  obtain ⟨a, ha, q, hq, ⟨b, d, hr, h⟩ | ⟨r, hr, h⟩ | ⟨hr, h⟩⟩ := h
  · cases h; exact ⟨a, q, ha, hq, .inl ⟨b, d, hr, rfl⟩⟩
  · obtain ⟨h1, rfl⟩ := State.memRead_eq_refused.1 hr; exact ⟨a, q, ha, hq, .inr (.inl ⟨h1, h⟩)⟩
  · exact ⟨a, q, ha, hq, .inr (.inr ⟨State.memRead_eq_silent.1 hr, h⟩)⟩

theorem exec_reduce_next {s t : State} (h : exec .reduce s = .next t) :
    ∃ a, s.eng.acc = some a ∧ t = s.complete { s.eng with acc := some a.reduced } := by
  simp only [exec, execReduce, withAccum_eq_next] at h
  obtain ⟨a, ha, h⟩ := h; cases h; exact ⟨a, ha, rfl⟩

theorem exec_vbegin_next {s t : State} (h : exec .vbegin s = .next t) :
    s.eng.build.hasVector = true ∧ ∃ a, s.eng.acc = some a ∧ a.isReduced = true ∧
      t = s.complete { s.eng with blk := some (Block.opened s.eng.build.w a.s1) } := by
  simp only [exec, execVbegin, withVectorTier_eq_next, withAccum_eq_next, asserting_eq_next] at h
  obtain ⟨hv, a, ha, hr, h⟩ := h; cases h; exact ⟨hv, a, ha, hr, rfl⟩

/-- VCHUNK: all its reads complete, or the lowest one that does not raises ReadFault, or one is still pending. -/
theorem exec_vchunk_next {s t : State} (h : exec .vchunk s = .next t) :
    s.eng.build.hasVector = true ∧ ∃ v q, s.eng.blk = some v ∧ s.eng.seq = some q ∧
      ((∃ bs d, s.memReads s.eng.build.w q.ptr s.draws = .got bs d ∧ v.blen.toNat + s.eng.build.w ≤ 5552 ∧
          t = s.afterChunk d (v.addChunk s.eng.build.w bs) q) ∨
        (∃ r, s.memReads s.eng.build.w q.ptr s.draws = .refused r ∧ t = s.raise (.readFault r)) ∨
        (s.memReads s.eng.build.w q.ptr s.draws = .silent ∧ t = s)) := by
  simp only [exec, execVchunk, withVectorTier_eq_next, withBlock_eq_next, withSequencer_eq_next, withReply_eq_next,
    asserting_eq_next, decide_eq_true_eq] at h
  obtain ⟨hv, v, hb, q, hq, ⟨bs, d, hr, hn, h⟩ | ⟨r, hr, h⟩ | ⟨hr, h⟩⟩ := h
  · cases h; exact ⟨hv, v, q, hb, hq, .inl ⟨bs, d, hr, hn, rfl⟩⟩
  · exact ⟨hv, v, q, hb, hq, .inr (.inl ⟨r, hr, h⟩)⟩
  · exact ⟨hv, v, q, hb, hq, .inr (.inr ⟨hr, h⟩)⟩

theorem exec_vrecon_next {s t : State} (h : exec .vrecon s = .next t) :
    s.eng.build.hasVector = true ∧ ∃ a v, s.eng.acc = some a ∧ s.eng.blk = some v ∧ v.mayReconcile a.s2 = true ∧
      t = s.complete { s.eng with acc := some (v.reconciled s.eng.build.w a.s2) } := by
  simp only [exec, execVrecon, withVectorTier_eq_next, withAccum_eq_next, withBlock_eq_next, asserting_eq_next] at h
  obtain ⟨hv, a, ha, v, hb, hm, h⟩ := h; cases h; exact ⟨hv, a, v, ha, hb, hm, rfl⟩

/-- PACK: what it packs is reduced (`State.finalPair_isReduced`) and is S1 and S2 themselves unless the run was raced
(`State.finalPair_settled`). -/
theorem exec_pack_next {s t : State} (h : exec .pack s = .next t) :
    ∃ a, s.eng.acc = some a ∧ a.isReduced = true ∧
      t = { s with
        draws := s.drawsAfterPack
        eng := { s.eng.discard with result := (s.finalPair a).packed, status := Status.packed } } := by
  simp only [exec, execPack, withAccum_eq_next, asserting_eq_next] at h
  obtain ⟨a, ha, hr, h⟩ := h; cases h; exact ⟨a, ha, hr, rfl⟩

/-- PACK completes whenever S1 and S2 are reduced. -/
theorem exec_pack_reduced {s : State} {a : Accum} (ha : s.eng.acc = some a) (hr : a.isReduced = true) :
    exec .pack s = .next { s with
      draws := s.drawsAfterPack
      eng := { s.eng.discard with result := (s.finalPair a).packed, status := Status.packed } } := by
  rw [exec, execPack, withAccum_some _ ha, asserting_true _ hr]

/-- PACK of a run whose buffer no agent wrote packs S1 and S2. -/
theorem exec_pack_settled {s : State} {a : Accum} (ha : s.eng.acc = some a) (hr : a.isReduced = true)
    (hs : s.eng.isRaced = false) :
    exec .pack s = .next { s with eng := { s.eng.discard with result := a.packed, status := Status.packed } } := by
  rw [exec_pack_reduced ha hr, (State.finalPair_settled hs a).1, (State.finalPair_settled hs a).2]

end Sys2Proof.Machine
end

