-- ==== Sys2Proof/Laws/Memory.lean ====
section
/-! SUPPORT. The laws of the buffer space: a read after a write, and the canonical form. -/

namespace Sys2Proof.Machine

@[simp] theorem Memory.read_nil (a : Nat) : Memory.read [] a = Memory.blank := rfl

@[simp] theorem Memory.read_cons (k : Nat) (v : Byte) (m : Memory) (a : Nat) :
    Memory.read ((k, v) :: m) a = if k = a then v else Memory.read m a := rfl

/-- An address below the canonical part is unlisted. -/
theorem Memory.read_below (m : Memory) : ∀ lo a, Memory.wfFrom lo m = true → a < lo → m.read a = Memory.blank := by
  induction m with
  | nil => intros; rfl
  | cons c m ih =>
    obtain ⟨k, v⟩ := c
    intro lo a h hlt
    simp only [Memory.wfFrom, Bool.and_eq_true, decide_eq_true_eq] at h
    have : k ≠ a := by omega
    simp [this, ih (k + 1) a h.2 (by omega)]

/-- The canonical form from a higher address is one from a lower address. -/
theorem Memory.wfFrom_mono (m : Memory) {lo lo' : Nat} (hle : lo' ≤ lo) (h : Memory.wfFrom lo m = true) :
    Memory.wfFrom lo' m = true := by
  cases m with
  | nil => rfl
  | cons c m =>
    obtain ⟨k, v⟩ := c
    simp only [Memory.wfFrom, Bool.and_eq_true, decide_eq_true_eq] at h ⊢
    exact ⟨⟨⟨by omega, h.1.1.2⟩, h.1.2⟩, h.2⟩

/-- A write keeps the canonical form. -/
theorem Memory.write_wfFrom (m : Memory) :
    ∀ lo a b, Memory.wfFrom lo m = true → lo ≤ a → a < 2 ^ 32 → Memory.wfFrom lo (m.write a b) = true := by
  induction m with
  | nil =>
    intro lo a b _ hlo hlt
    unfold Memory.write
    split
    · rfl
    · simp_all [Memory.wfFrom]
  | cons c m ih =>
    obtain ⟨k, v⟩ := c
    intro lo a b h hlo hlt
    simp only [Memory.wfFrom, Bool.and_eq_true, decide_eq_true_eq] at h
    unfold Memory.write
    split_ifs with h1 h2 h3 h4 <;>
      try simp only [Memory.wfFrom, Bool.and_eq_true, decide_eq_true_eq]
    · exact h
    · exact ⟨⟨⟨hlo, hlt⟩, h2⟩, ⟨⟨by omega, h.1.1.2⟩, h.1.2⟩, h.2⟩
    · exact Memory.wfFrom_mono m (by omega) h.2
    · exact ⟨⟨⟨hlo, hlt⟩, h4⟩, by subst h3; exact h.2⟩
    · exact ⟨h.1, ih (k + 1) a b h.2 (by omega) hlt⟩

/-- A write to an address of the space keeps the canonical form. -/
theorem Memory.write_wf (m : Memory) (a : Nat) (b : Byte) (h : m.wf = true) (ha : a < 2 ^ 32) :
    (m.write a b).wf = true :=
  Memory.write_wfFrom m 0 a b h (Nat.zero_le a) ha

/-- A read of the address just written gives the byte written. -/
theorem Memory.read_write_same (m : Memory) :
    ∀ lo a b, Memory.wfFrom lo m = true → lo ≤ a → (m.write a b).read a = b := by
  induction m with
  | nil =>
    intro lo a b _ _
    unfold Memory.write
    split <;> simp_all
  | cons c m ih =>
    obtain ⟨k, v⟩ := c
    intro lo a b h hlo
    simp only [Memory.wfFrom, Bool.and_eq_true, decide_eq_true_eq] at h
    unfold Memory.write
    split_ifs with h1 h2 h3 h4
    · have : k ≠ a := by omega
      simp [this, Memory.read_below m (k + 1) a h.2 (by omega), h2]
    · simp
    · rw [Memory.read_below m (k + 1) a h.2 (by omega), h4]
    · simp
    · have : k ≠ a := fun e => h3 e.symm
      simp [this, ih (k + 1) a b h.2 (by omega)]

/-- A write leaves every other address alone. -/
theorem Memory.read_write_other (m : Memory) (a : Nat) (b : Byte) (a' : Nat) (hne : a' ≠ a) :
    (m.write a b).read a' = m.read a' := by
  induction m with
  | nil =>
    unfold Memory.write
    split
    · rfl
    · simp [hne.symm]
  | cons c m ih =>
    obtain ⟨k, v⟩ := c
    unfold Memory.write
    split_ifs with h1 h2 h3 h4
    · rfl
    · simp [hne.symm]
    · subst h3; simp [hne.symm]
    · subst h3; simp [hne.symm]
    · simp [ih]

/-- Reset memory lists nothing, which is canonical. -/
theorem Memory.wf_nil : Memory.wf [] = true := rfl

/-- The memory of the machine right after reset is canonical. -/
theorem State.reset_mem_wf : State.reset.mem.wf = true := rfl

@[simp] theorem Memory.bytes_length (m : Memory) (base : Word) (n : Nat) : (m.bytes base n).length = n := by
  simp [Memory.bytes]

end Sys2Proof.Machine
end

