-- ==== Sys2Proof/Laws/PerInstr.lean ====
section
/-! SUPPORT. Statements made of every instruction as syntax, one lemma per constructor. -/

namespace Sys2Proof.Laws.Channel

/-- The two formats never share a word (30_encoding.md R80): bit 0 of an instruction's word is set exactly when it is a
command; the word of a micro-op decodes to it, and the CMD decoder rejects it. -/
def Statement (i : Instr) : Prop :=
  startOf (encode i) = i.isCommand ∧
    (i.isCommand = false → decodeUop (encode i) = .ok i ∧ decodeCmd (encode i) = .error .noStart)

theorem seed : Statement .seed := by unfold Statement; decide
theorem sstep : Statement .sstep := by unfold Statement; decide
theorem rstep : Statement .rstep := by unfold Statement; decide
theorem reduce : Statement .reduce := by unfold Statement; decide
theorem vbegin : Statement .vbegin := by unfold Statement; decide
theorem vchunk : Statement .vchunk := by unfold Statement; decide
theorem vrecon : Statement .vrecon := by unfold Statement; decide
theorem pack : Statement .pack := by unfold Statement; decide
theorem startScalar (x : BitVec 29) : Statement (.startScalar x) :=
  ⟨startOf_cmdWord x 0b00, fun h => by simp [Instr.isCommand] at h⟩
theorem startBatched (x : BitVec 29) : Statement (.startBatched x) :=
  ⟨startOf_cmdWord x 0b01, fun h => by simp [Instr.isCommand] at h⟩
theorem startVector (x : BitVec 29) : Statement (.startVector x) :=
  ⟨startOf_cmdWord x 0b10, fun h => by simp [Instr.isCommand] at h⟩
theorem startAuto (x : BitVec 29) : Statement (.startAuto x) :=
  ⟨startOf_cmdWord x 0b11, fun h => by simp [Instr.isCommand] at h⟩

end Sys2Proof.Laws.Channel
end

