-- ==== Sys2Proof/Laws/Schedule.lean ====
section
/-! SUPPORT. The schedules: their shape by tier, the segments, and the bytes that a list of micro-op words consumes. -/

namespace Sys2Proof.Machine

theorem microOps_scalar (b : Build) (n : Nat) : microOps b .scalar n = scalarOps n := rfl
theorem microOps_batched (b : Build) (n : Nat) :
    microOps b .batched n =
      if n < 16 then scalarOps n else .seed :: ((segments n).flatMap batchedSegment ++ [.pack]) := rfl
theorem microOps_vector (b : Build) (n : Nat) :
    microOps b .vector n =
      if n < b.w then scalarOps n else .seed :: ((segments n).flatMap (vectorSegment b.w) ++ [.pack]) := rfl

/-- The segments add up to the buffer. -/
theorem segments_sum (n : Nat) : (segments n).sum = n := by
  have := Nat.div_add_mod n 5552
  unfold segments
  rw [List.sum_append, List.sum_replicate]
  split <;> simp only [Config.nmax_eq, smul_eq_mul, List.sum_cons, List.sum_nil] at * <;> omega

theorem segments_length (n : Nat) : (segments n).length = (n + 5551) / 5552 := by
  unfold segments
  rw [List.length_append, List.length_replicate]
  split <;> simp only [Config.nmax_eq, List.length_cons, List.length_nil] at * <;> omega

/-- No segment is empty or longer than NMAX. -/
theorem segments_range (n : Nat) : ∀ m ∈ segments n, 0 < m ∧ m ≤ 5552 := by
  intro m hm
  unfold segments at hm
  rw [List.mem_append] at hm
  rcases hm with h | h
  · rw [List.eq_of_mem_replicate h]; decide
  · split at h
    · simp only [List.mem_singleton, Config.nmax_eq] at *; omega
    · cases h

theorem bytesConsumed_append (w : Nat) (xs ys : List Word) :
    bytesConsumed w (xs ++ ys) = bytesConsumed w xs + bytesConsumed w ys := by
  simp [bytesConsumed]

theorem bytesConsumed_encode (w : Nat) (i : Instr) (ws : List Word) (h : i.isCommand = false) :
    bytesConsumed w (encode i :: ws) = bytesTaken w i + bytesConsumed w ws := by
  simp only [bytesConsumed, List.map_cons, List.sum_cons, decodeUop_encode i h]

end Sys2Proof.Machine
end

