-- ==== Sys2Proof/Laws/Turns.lean ====
section
/-! SUPPORT. What each turn can do: the Engine's issue, a Host access of the instance in focus, and the step by the turn
that is taken. -/

namespace Sys2Proof.Machine

/-! ### The step by its turn -/

theorem step_turn {s : State} {t : Turn} {rest : List Turn} (h : s.turns = t :: rest) :
    step s = State.takeTurn { s with turns := rest } t := by
  simp only [step, h]

theorem step_default {s : State} (h : s.turns = []) : step s = s.defaultTurn := by simp only [step, h]

theorem defaultTurn_busy {s : State} (h : s.eng.status.busy = true) : s.defaultTurn = s.engineTurn := by
  simp [State.defaultTurn, h]

theorem defaultTurn_host {s : State} {line : HostLine} {rest : List HostLine} (h : s.eng.status.busy = false)
    (hh : s.host = line :: rest) : s.defaultTurn = s.hostTurn := by
  simp [State.defaultTurn, h, hh]

theorem hostTurn_cons {s : State} {line : HostLine} {rest : List HostLine} (hh : s.host = line :: rest) :
    s.hostTurn = State.hostLine { s with host := rest } line := by
  simp only [State.hostTurn, hh]

/-! ### The Engine's turn -/

theorem engineTurn_idle {s : State} (h : s.eng.status.busy = false) : s.engineTurn = .next s := by
  simp [State.engineTurn, h]

theorem engineTurn_issue {s : State} {q : Sequencer} {w : Word} {i : Instr} (hb : s.eng.status.busy = true)
    (hq : s.eng.seq = some q) (hw : q.sched[q.upc]? = some w) (hi : decodeUop w = .ok i) : s.engineTurn = exec i s := by
  simp only [State.engineTurn, hb, if_true, withSequencer_some _ hq, hw, hi]

/-- An Engine's turn that gives a next state was idle or ran one micro-op. -/
theorem engineTurn_eq_next {s t : State} (h : s.engineTurn = .next t) :
    (s.eng.status.busy = false ∧ t = s) ∨
    (s.eng.status.busy = true ∧ ∃ q w i, s.eng.seq = some q ∧ q.sched[q.upc]? = some w ∧ decodeUop w = .ok i ∧
      exec i s = .next t) := by
  unfold State.engineTurn at h
  split at h
  · rename_i hb
    obtain ⟨q, hq, h⟩ := withSequencer_eq_next.1 h
    split at h
    · cases h
    · rename_i w hw
      split at h
      · rename_i i hi; exact .inr ⟨hb, q, w, i, hq, hw, hi, h⟩
      · cases h
  · rename_i hb
    cases h
    exact .inl ⟨by simpa using hb, rfl⟩

/-! ### A Host access of the instance in focus -/

theorem attend_self {s : State} {addr : Word} (h : s.eng.offsetOf addr < 256) : s.attend addr = some s := by
  simp only [State.attend, Engine.holds, decide_eq_true h, if_true]

/-- A word access at a word offset of the block in focus goes to that register. -/
theorem access_self {s : State} {addr : Word} {k : Nat → State → Result} {off : Nat} (ho : s.eng.offsetOf addr = off)
    (h : off < 256) (h4 : off % 4 = 0) : s.access .word addr k = k off s := by
  subst ho
  simp only [State.access, attend_self h, h4, and_self, if_true]

/-- A sub-word or misaligned access of the block in focus is refused. -/
theorem access_bad {s : State} {addr : Word} {k : Nat → State → Result} {width : AccessWidth}
    (h : s.eng.offsetOf addr < 256) (hb : width ≠ .word ∨ s.eng.offsetOf addr % 4 ≠ 0) :
    s.access width addr k = .refused .badRegisterAccess := by
  have : ¬(width = .word ∧ s.eng.offsetOf addr % 4 = 0) := by
    rintro ⟨h1, h2⟩
    rcases hb with hb | hb <;> contradiction
  simp only [State.access, attend_self h, this, if_false]

/-- The offset of the register at `REG_BASE + off`. -/
theorem offsetOf_base (e : Engine) (off : Word) : e.offsetOf (e.build.regBase + off) = off.toNat := by
  rw [Engine.offsetOf, BitVec.add_comm, BitVec.add_sub_cancel]

/-- A command word written to CTRL is that command. -/
theorem writeAt_command {s : State} {data : Word} {i : Instr} (h : decodeCmd data = .ok i) :
    s.writeAt 0x04 data = exec i s := by
  simp [State.writeAt, State.writeCtrl, h]

/-- A word without START written to CTRL is the register write SETENG. -/
theorem writeAt_setEngine {s : State} {data : Word} {r : Reject} (h : decodeCmd data = .error r) :
    s.writeAt 0x04 data = .next (s.setEngine (engineOf data)) := by
  simp [State.writeAt, State.writeCtrl, h]

end Sys2Proof.Machine
end

