-- ==== Sys2Proof/Tests/Slice0.lean ====
section
/-! SUPPORT. The model's own tests. Every expected result is the spec's: the words of 30_encoding.md R84 and R87, and the
vectors V<n> of 95_test_vectors.md. The second half holds one witness per statement of Certificates/Slice0: a concrete
state and operands that meet its hypotheses together. -/

namespace Sys2Proof.Tests

open Sys2Proof Sys2Proof.Machine

/-! ### Helpers -/

/-- A build with `w` lanes, its register block at 0x1000. -/
def buildOf (w : Nat) (v : Bool) : Build := { w := w, hasVector := v, regBase := 0x1000 }

/-- Memory that holds `bytes` from address `a` on. -/
def memOf : Nat → List Byte → Memory
  | _, [] => []
  | a, b :: bs => (memOf (a + 1) bs).write a b

/-- One address that the platform treats in its own way. -/
def at1 (a : Nat) (k : PortAnswer) : Region := { lo := a, size := 1, kind := k }

/-- A machine with the instance `e`, the bytes `bytes` at 0x100 and the platform regions `r`. -/
def machine (e : Engine) (bytes : List Byte := []) (r : List Region := []) : State :=
  { State.reset with eng := e, mem := memOf 0x100 bytes, platform := { regions := r, coherent := true } }

/-- An idle instance with SRC_ADDR and LENGTH written. -/
def idle (b : Build) (src len : Word) : Engine := { Engine.afterReset b with srcAddr := src, length := len }

/-- A BUSY instance at the head of the micro-ops `ops`, its buffer the 8 bytes at 0x100. -/
def busy (b : Build) (a : Option Accum) (v : Option Block) (ops : List Instr) : Engine :=
  { Engine.afterReset b with
    status := Status.started
    acc := a
    blk := v
    seq := some
      { base := 0x100, n := 8, ptr := 0x100, eff := .scalar, sched := ops.map encode, upc := 0, raced := [] } }

/-- S1 and S2 after a step. -/
def sums : Result → Option (Nat × Nat)
  | .next t => t.eng.acc.map fun a => (a.s1.toNat, a.s2.toNat)
  | .fault _ | .refused _ => none

/-- VP, BS1, BLEN and the lanes after a step. -/
def block : Result → Option (Nat × Nat × Nat × List Nat)
  | .next t => t.eng.blk.map fun v => (v.vp.toNat, v.bs1.toNat, v.blen.toNat, v.lanes.map BitVec.toNat)
  | .fault _ | .refused _ => none

/-- The register at `off` after a step. -/
def reg (off : Nat) : Result → Option Word
  | .next t => some (t.eng.readReg off)
  | .fault _ | .refused _ => none

/-- The length of SCHED after a step. -/
def steps : Result → Option Nat
  | .next t => t.eng.seq.map fun q => q.sched.length
  | .fault _ | .refused _ => none

/-- Whether there is a next state. -/
def goesOn : Result → Bool
  | .next _ => true
  | .fault _ | .refused _ => false

/-! ### Well-formedness -/

theorem test_vbegin_needs_the_vector_tier : Instr.wellFormed (buildOf 4 false) .vbegin = false := by decide
theorem test_vchunk_needs_the_vector_tier : Instr.wellFormed (buildOf 4 false) .vchunk = false := by decide
theorem test_vrecon_needs_the_vector_tier : Instr.wellFormed (buildOf 4 false) .vrecon = false := by decide
theorem test_sstep_on_every_build : Instr.wellFormed (buildOf 4 false) .sstep = true := by decide
theorem test_start_vector_on_every_build : Instr.wellFormed (buildOf 4 false) (.startVector 0) = true := by decide
theorem test_width_zero_is_illegal : (buildOf 0 true).legal = false := by decide
theorem test_width_above_nmax_is_illegal : (buildOf 5553 true).legal = false := by decide
theorem test_width_nmax_is_legal : (buildOf 5552 true).legal = true := by decide

/-! ### Decoding: words written out from 30_encoding.md R81, R82, R84 and R87 -/

theorem test_decode_seed : decodeTableWord 32 0b00000001000000000000000000000000 = some .seed := by decide
theorem test_decode_sstep : decodeTableWord 32 0b00000010000000000000000000000000 = some .sstep := by decide
theorem test_decode_rstep : decodeTableWord 32 0b00000011000000000000000000000000 = some .rstep := by decide
theorem test_decode_reduce : decodeTableWord 32 0b00000100000000000000000000000000 = some .reduce := by decide
theorem test_decode_vbegin : decodeTableWord 32 0b00000101000000000000000000000000 = some .vbegin := by decide
theorem test_decode_vchunk : decodeTableWord 32 0b00000110000000000000000000000000 = some .vchunk := by decide
theorem test_decode_vrecon : decodeTableWord 32 0b00000111000000000000000000000000 = some .vrecon := by decide
theorem test_decode_pack : decodeTableWord 32 0b00001000000000000000000000000000 = some .pack := by decide
theorem test_decode_start_scalar :
    decodeTableWord 32 0b00000000000000000000000000000001 = some (.startScalar 0) := by decide
theorem test_decode_start_batched :
    decodeTableWord 32 0b00000000000000000000000000000011 = some (.startBatched 0) := by decide
theorem test_decode_start_vector :
    decodeTableWord 32 0b00000000000000000000000000000101 = some (.startVector 0) := by decide
theorem test_decode_start_auto :
    decodeTableWord 32 0b00000000000000000000000000000111 = some (.startAuto 0) := by decide
/-- V44: the bits [31:3] take no part in the match. -/
theorem test_decode_start_ignores_x : decodeTableWord 32 0xFFFFFFFB = some (.startBatched 0x1FFFFFFF) := by decide
theorem test_reject_opc_zero : decodeUop 0x00000000 = .error .reservedOpc := by decide
theorem test_reject_opc_nine : decodeUop 0x09000000 = .error .reservedOpc := by decide
theorem test_reject_opc_last : decodeUop 0xFF000000 = .error .reservedOpc := by decide
theorem test_reject_nonzero_z : decodeUop 0x01000001 = .error .nonzeroZ := by decide
theorem test_reject_no_start : decodeCmd 0x00000004 = .error .noStart := by decide
theorem test_encode_start_auto : encode (.startAuto 0) = 0x00000007 := by decide

/-! ### Memory -/

theorem test_memory_keeps_order : memOf 0x100 [1, 0, 3] = [(0x100, 1), (0x102, 3)] := by decide
theorem test_memory_write_zero_unlists : Memory.write [(4, 9)] 4 0 = [] := by decide
theorem test_memory_form_refuses_disorder : Memory.wf [(4, 9), (4, 8)] = false := by decide

/-! ### One step: the vectors of 95_test_vectors.md -/

/-- V10. -/
theorem test_seed_from_no_value : sums (exec .seed (machine (busy (buildOf 4 true) none none [.seed]))) = some (1, 0) := by
  decide

/-- V13: S1 wraps to 0, so S2 stays. -/
theorem test_sstep_wraps_to_zero :
    sums (exec .sstep (machine (busy (buildOf 4 true) (some ⟨65520, 5⟩) none [.sstep]) [1])) = some (0, 5) := by decide
/-- V14. -/
theorem test_sstep_wraps_past_mod :
    sums (exec .sstep (machine (busy (buildOf 4 true) (some ⟨65520, 0⟩) none [.sstep]) [255])) = some (254, 254) := by
  decide

/-- 42_batched.md R140 by hand: 65520 + 1 and 65520 + 65521, not reduced. -/
theorem test_rstep_does_not_reduce :
    sums (exec .rstep (machine (busy (buildOf 4 true) (some ⟨65520, 65520⟩) none [.rstep]) [1])) =
      some (65521, 131041) := by decide
/-- V17: the u32 wrap. -/
theorem test_rstep_wraps_at_32_bits :
    sums (exec .rstep (machine (busy (buildOf 4 true) (some ⟨0xFFFFFFFF, 5⟩) none [.rstep]) [1])) = some (0, 5) := by
  decide

/-- V18, first row. -/
theorem test_reduce_worst_case :
    sums (exec .reduce (machine (busy (buildOf 4 true) (some ⟨1481280, 4294690200⟩) none [.reduce]))) =
      some (39818, 50734) := by decide
/-- V18, second row. -/
theorem test_reduce_to_zero :
    sums (exec .reduce (machine (busy (buildOf 4 true) (some ⟨65521, 131042⟩) none [.reduce]))) = some (0, 0) := by decide

/-- V21. -/
theorem test_vbegin_clears_the_lanes :
    block (exec .vbegin (machine (busy (buildOf 4 true) (some ⟨1, 0⟩) none [.vbegin]))) =
      some (0, 0, 0, [0, 0, 0, 0]) := by decide

/-- V22, the state between its two chunks. -/
def afterChunk1 : Block := { s1e := 1, bs1 := 10, vp := 0, blen := 4, lanes := [1, 2, 3, 4] }

/-- V22, the second chunk. -/
theorem test_vchunk_second_chunk :
    block (exec .vchunk (machine (busy (buildOf 4 true) (some ⟨1, 0⟩) (some afterChunk1) [.vchunk]) [5, 6, 7, 8])) =
      some (10, 36, 8, [6, 8, 10, 12]) := by decide
/-- V23: the lowest refused address of the chunk. -/
theorem test_vchunk_reports_the_lowest_refused :
    reg 0x18 (exec .vchunk (machine (busy (buildOf 4 true) (some ⟨1, 0⟩) (some afterChunk1) [.vchunk]) []
      [at1 0x103 .refused, at1 0x102 .refused])) = some 0x102 := by decide

/-- V24. -/
theorem test_vrecon_two_chunks :
    sums (exec .vrecon (machine (busy (buildOf 4 true) (some ⟨1, 0⟩)
      (some { s1e := 1, bs1 := 36, vp := 10, blen := 8, lanes := [6, 8, 10, 12] }) [.vrecon]))) = some (37, 128) := by
  decide
/-- V25: W = 16. -/
theorem test_vrecon_single_byte :
    sums (exec .vrecon (machine (busy (buildOf 16 true) (some ⟨1, 0⟩)
      (some { s1e := 1, bs1 := 1, vp := 0, blen := 16, lanes := 1 :: List.replicate 15 0 }) [.vrecon]))) =
      some (2, 32) := by decide

/-- V27, row 3. -/
theorem test_pack_zero_s1 :
    reg 0x14 (exec .pack (machine (busy (buildOf 4 true) (some ⟨0, 65520⟩) none [.pack]))) = some 0xFFF00000 := by decide
/-- V27: STATUS after PACK. -/
theorem test_pack_status :
    reg 0x08 (exec .pack (machine (busy (buildOf 4 true) (some ⟨65520, 65520⟩) none [.pack]))) = some 0x00000002 := by
  decide

/-- V33: the sum is exactly 2^32. -/
theorem test_start_scalar_to_the_top :
    steps (exec (.startScalar 0) (machine (idle (buildOf 16 true) 0xFFFFFFF0 16))) = some 18 := by decide
/-- V34. -/
theorem test_start_scalar_past_the_top :
    reg 0x08 (exec (.startScalar 0) (machine (idle (buildOf 16 true) 0xFFFFFFF0 17))) = some 0x00000034 := by decide
/-- V28, n = 16: 16 RSTEPs and one REDUCE. -/
theorem test_start_batched_sixteen :
    steps (exec (.startBatched 0) (machine (idle (buildOf 16 true) 0x100 16))) = some 19 := by decide
/-- V36. -/
theorem test_start_batched_past_the_top :
    reg 0x08 (exec (.startBatched 0) (machine (idle (buildOf 16 true) 2 0xFFFFFFFF))) = some 0x00000034 := by decide
/-- V38: IllegalEngine is checked first. -/
theorem test_start_vector_absent_tier :
    reg 0x08 (exec (.startVector 0) (machine (idle (buildOf 16 false) 0xFFFFFFF0 17))) = some 0x00000024 := by decide
/-- V28, n = 33 at W = 16. -/
theorem test_start_vector_leftover :
    steps (exec (.startVector 0) (machine (idle (buildOf 16 true) 0x100 33))) = some 7 := by decide
/-- V40. -/
theorem test_start_auto_vector :
    steps (exec (.startAuto 0) (machine (idle (buildOf 16 true) 0x1000 100))) = some 14 := by decide
/-- V39: without the vector tier AUTO takes BATCHED. -/
theorem test_start_auto_batched :
    steps (exec (.startAuto 0) (machine (idle (buildOf 16 false) 0x1000 100))) = some 103 := by decide

/-- V42: START = 0 only stores ENGINE. -/
theorem test_seteng : reg 0x04 (State.writeAt (machine (idle (buildOf 16 true) 0 0)) 0x04 0x4) = some 0x00000004 := by
  decide
/-- V44: CTRL reads ENGINE afterwards, START reads 0. -/
theorem test_ctrl_reads_engine :
    reg 0x04 (State.writeAt (machine (idle (buildOf 16 true) 0 0)) 0x04 0xFFFFFFFB) = some 0x00000002 := by decide
/-- PARAM of the default build (10_state.md R29). -/
theorem test_param_default : State.reset.eng.readReg 0x1C = 0x00010010 := by decide
/-- V3: "Wikipedia". -/
theorem test_adler32_wikipedia : adler32 [0x57, 0x69, 0x6B, 0x69, 0x70, 0x65, 0x64, 0x69, 0x61] = 0x11E60398 := by decide

/-- 30_encoding.md R87 and R89: the CTRL write of CHECKSUM AUTO is the word 7. -/
theorem test_checksum_writes_start_auto : (checksumLines 0x1000 0b11 0x100 9)[2]? = some (.wr .word 0x1004 7) := by
  decide

/-- A UOP word and a CMD word placed at reset are run by the very next step (log 10). -/
theorem test_placed_words_run :
    sums (step (State.reset.withFetchWord 32 0x01000000)) = some (1, 0) ∧
      reg 0x08 (step (State.reset.withFetchWord 32 0x00000001)) = some 0x00000001 := by decide

/-! ### Witnesses: the hypotheses of each statement are met -/

/-- A running scalar operation about to take the byte at 0x100. -/
def onByte (i : Instr) (r : List Region := []) : State :=
  machine (busy (buildOf 4 true) (some ⟨65520, 65520⟩) none [i]) [255] r

/-- A running vector operation with an open super-block, `l` bytes into it. -/
def onBlock (i : Instr) (l : Word) (r : List Region := []) : State :=
  machine (busy (buildOf 4 true) (some ⟨65520, 65520⟩)
    (some { s1e := 65520, bs1 := 0, vp := 0, blen := l, lanes := [0, 0, 0, 0] }) [i]) [255, 255, 255, 255] r

/-- The sequencer of both. -/
def onSeq (i : Instr) : Sequencer :=
  { base := 0x100, n := 8, ptr := 0x100, eff := .scalar, sched := [encode i], upc := 0, raced := [] }

/-- A running operation that has read its whole buffer and is about to PACK. -/
def allRead : State :=
  { onByte .pack with eng := { (onByte .pack).eng with seq := some { onSeq .pack with ptr := 0x108 } } }

/-- R70 and R274: a store to a byte that was read already races; PACK still ends the operation with DONE. -/
theorem test_store_behind_ptr_races :
    allRead.eng.isRaced = false ∧ (allRead.hostStore 0x100 7).eng.isRaced = true ∧
      reg 0x08 (exec .pack (allRead.hostStore 0x100 7)) = some 0x00000002 := by decide

/-- A store beside the buffer does not race, and PACK gives S1 and S2. -/
theorem test_store_beside_the_buffer :
    reg 0x14 (exec .pack (allRead.hostStore 0x108 7)) = some 0xFFF0FFF0 ∧
      reg 0x14 (exec .pack (allRead.hostStore 0xFF 7)) = some 0xFFF0FFF0 := by decide

theorem witness_UopDecodingIsTotalAndExact :
    (0x01000001 : Word).extractLsb' 0 24 ≠ 0 ∧ (0x09000000 : Word).extractLsb' 0 24 = 0 ∧
      decodeUop 0x08000000 = .ok .pack := by decide

theorem witness_CommandWordsUseBitsTwoToZero :
    (0x00000006 : Word).getLsbD 0 = false ∧ (0xFFFFFFFF : Word).getLsbD 0 = true ∧
      decodeCmd 0xFFFFFFFD = .ok (.startVector 0x1FFFFFFF) := by decide

theorem witness_SstepFoldsOneByteReduced :
    (onByte .sstep).eng.acc = some ⟨65520, 65520⟩ ∧ (onByte .sstep).eng.seq = some (onSeq .sstep) ∧
      (onByte .sstep).platform.answer (onSeq .sstep).ptr = .answers ∧ (onByte .sstep).isDraw (onSeq .sstep).ptr = false ∧
      (onByte .sstep [at1 0x100 .refused]).platform.answer (onSeq .sstep).ptr = .refused := by decide

theorem witness_RstepFoldsOneByteUnreduced :
    (onByte .rstep).eng.acc = some ⟨65520, 65520⟩ ∧ (onByte .rstep).eng.seq = some (onSeq .rstep) ∧
      (onByte .rstep).platform.answer (onSeq .rstep).ptr = .answers ∧ (onByte .rstep).isDraw (onSeq .rstep).ptr = false ∧
      (onByte .rstep [at1 0x100 .refused]).platform.answer (onSeq .rstep).ptr = .refused := by decide

theorem witness_ReduceReducesBothSums : (onByte .reduce).eng.acc = some ⟨65520, 65520⟩ := by decide

theorem witness_VbeginOpensASuperBlock :
    (onByte .vbegin).eng.build.hasVector = true ∧ (onByte .vbegin).eng.acc = some ⟨65520, 65520⟩ := by decide

/-- The assertion at its boundary: BLEN + W = NMAX; and a chunk whose second byte is refused. -/
theorem witness_VchunkAccumulatesOneChunk :
    (onBlock .vchunk 5548).eng.blk = some { s1e := 65520, bs1 := 0, vp := 0, blen := 5548, lanes := [0, 0, 0, 0] } ∧
      (onBlock .vchunk 5548).eng.seq = some (onSeq .vchunk) ∧
      (∀ k, k < 4 → (onBlock .vchunk 5548).platform.answer (byteAddr (onSeq .vchunk).ptr k) = .answers) ∧
      (5548 : Word).toNat + 4 ≤ 5552 ∧
      (onBlock .vchunk 5548 [at1 0x101 .refused]).platform.answer (byteAddr (onSeq .vchunk).ptr 0) = .answers ∧
      (onBlock .vchunk 5548 [at1 0x101 .refused]).platform.answer (byteAddr (onSeq .vchunk).ptr 1) = .refused := by
  decide

/-- The assertion at its boundary: BLEN = NMAX and S1E = S2 = 65520. -/
theorem witness_VreconReconcilesTheSuperBlock :
    (onBlock .vrecon 5552).eng.blk = some { s1e := 65520, bs1 := 0, vp := 0, blen := 5552, lanes := [0, 0, 0, 0] } ∧
      (onBlock .vrecon 5552).eng.acc = some ⟨65520, 65520⟩ ∧ (5552 : Word).toNat ≤ 5552 ∧
      (65520 : Word).toNat < 65521 := by decide

/-- Both halves at their greatest value, without and with a racing write; and an S1 that is not reduced. -/
theorem witness_PackPublishesTheResult :
    (onByte .pack).eng.acc = some ⟨65520, 65520⟩ ∧ (onByte .pack).eng.isRaced = false ∧
      (allRead.hostStore 0x107 7).eng.acc = some ⟨65520, 65520⟩ ∧ (allRead.hostStore 0x107 7).eng.isRaced = true ∧
      (machine (busy (buildOf 4 true) (some ⟨65521, 0⟩) none [.pack])).eng.acc = some ⟨65521, 0⟩ := by decide

/-- A buffer that ends exactly at the top of the address space, and LENGTH = 0 at its last address. -/
theorem witness_AcceptedStartBeginsAnOperation :
    (idle (buildOf 16 true) 0xFFFFFFF0 16).status.busy = false ∧
      (idle (buildOf 16 true) 0xFFFFFFF0 16).srcAddr.toNat + (idle (buildOf 16 true) 0xFFFFFFF0 16).length.toNat ≤ 2 ^ 32 ∧
      (idle (buildOf 16 true) 0xFFFFFFFF 0).length = 0 ∧ (idle (buildOf 16 true) 0xFFFFFFF0 16).build.hasVector = true :=
  by decide

/-- One byte past the top, on a build with and on one without the vector tier. -/
theorem witness_RejectedStartReportsItsCode :
    (idle (buildOf 16 false) 0xFFFFFFF0 17).build.hasVector = false ∧
      0 < (idle (buildOf 16 true) 0xFFFFFFF0 17).length.toNat ∧
      2 ^ 32 < (idle (buildOf 16 true) 0xFFFFFFF0 17).srcAddr.toNat + (idle (buildOf 16 true) 0xFFFFFFF0 17).length.toNat ∧
      (idle (buildOf 16 true) 0xFFFFFFF0 17).status.busy = false := by decide

theorem witness_CtrlWriteWhileBusyIsIgnored : (onByte .sstep).eng.status.busy = true := by decide

/-- SSTEP and RSTEP at a refused PTR; VCHUNK whose last byte is refused. -/
theorem witness_RefusedReadTerminatesTheOperation :
    (onByte .sstep [at1 0x100 .refused]).platform.answer (byteAddr (onSeq .sstep).ptr 0) = .refused ∧
      (onByte .rstep [at1 0x100 .refused]).platform.answer (byteAddr (onSeq .rstep).ptr 0) = .refused ∧
      (onBlock .vchunk 0 [at1 0x103 .refused]).platform.answer (byteAddr (onSeq .vchunk).ptr 3) = .refused ∧
      ∀ j, j < 3 →
        (onBlock .vchunk 0 [at1 0x103 .refused]).platform.answer (byteAddr (onSeq .vchunk).ptr j) = .answers := by decide

theorem witness_SilentReadLeavesTheOperationBusy :
    (onByte .sstep [at1 0x100 .silent]).platform.answer (byteAddr (onSeq .sstep).ptr 0) = .silent ∧
      (onBlock .vchunk 0 [at1 0x103 .silent]).platform.answer (byteAddr (onSeq .vchunk).ptr 3) = .silent ∧
      ∀ j, j < 3 →
        (onBlock .vchunk 0 [at1 0x103 .silent]).platform.answer (byteAddr (onSeq .vchunk).ptr j) = .answers := by decide

/-- A machine where every read completes; both sides of an assertion occur. -/
theorem witness_UnreachableFaultsWhereTheSpecSays :
    (onBlock .vchunk 5549).eng.build.hasVector = true ∧
      (∀ a, (onBlock .vchunk 5549).platform.answer a = .answers) ∧
      goesOn (exec .vchunk (onBlock .vchunk 5548)) = true ∧ goesOn (exec .vchunk (onBlock .vchunk 5549)) = false :=
  ⟨by decide, fun _ => rfl, by decide, by decide⟩

theorem witness_StopsUnderTheirNames :
    (machine (busy (buildOf 4 false) (some ⟨1, 0⟩) none [.vbegin])).eng.build.hasVector = false ∧
      (onByte .sstep [at1 0x100 .sideEffects]).platform.answer (byteAddr (onSeq .sstep).ptr 0) = .sideEffects ∧
      (onBlock .vchunk 0 [at1 0x101 .sideEffects]).platform.answer (byteAddr (onSeq .vchunk).ptr 1) = .sideEffects := by
  decide

theorem witness_RegisterMicroOpsFrame :
    goesOn (exec .seed (onByte .seed)) ∧ goesOn (exec .reduce (onByte .reduce)) ∧
      goesOn (exec .vbegin (onByte .vbegin)) ∧ goesOn (exec .vrecon (onBlock .vrecon 4)) := by decide

/-- A completed read and a ReadFault. -/
theorem witness_ByteReadersFrame :
    goesOn (exec .sstep (onByte .sstep)) ∧ goesOn (exec .rstep (onByte .rstep [at1 0x100 .refused])) ∧
      goesOn (exec .vchunk (onBlock .vchunk 4)) := by decide

theorem witness_PackAndCommandsFrame :
    goesOn (exec .pack (onByte .pack)) ∧ (onByte .pack).eng.isRaced = false ∧
      goesOn (exec (.startAuto 0) (machine (idle (buildOf 4 true) 0x100 4))) := by
  decide

/-- A Host store that changes a byte; the other clauses' next states are those above. -/
theorem witness_OnlyAHostStoreWritesMemory :
    (onByte .sstep).mem.wf = true ∧ goesOn (State.engineTurn (onByte .sstep)) ∧
      goesOn (State.hostLine (onByte .sstep) (.store 0x100 7)) ∧ (onByte .sstep).mem.read 0x100 ≠ 7 := by decide

theorem witness_OnlyPackPublishes :
    reg 0x14 (exec .pack (onByte .pack)) ≠ some ((onByte .pack).eng.readReg 0x14) ∧
      (onByte .pack).eng.status.done = false ∧ reg 0x08 (exec .pack (onByte .pack)) = some 2 := by decide

theorem witness_OnlyAReadFaultWritesFaultAddr :
    reg 0x18 (exec .sstep (onByte .sstep [at1 0x100 .refused])) = some 0x100 ∧ (onByte .sstep).eng.faultAddr ≠ 0x100 := by
  decide

theorem witness_StatusStaysLegal :
    (onByte .sstep).eng.status.legal = true ∧ goesOn (exec .sstep (onByte .sstep [at1 0x100 .refused])) := by decide

theorem witness_OnlyStartPackAndReadFaultWriteStatus :
    reg 0x08 (exec .pack (onByte .pack)) ≠ some ((onByte .pack).eng.readReg 0x08) ∧
      reg 0x08 (exec (.startScalar 0) (machine (idle (buildOf 4 true) 0x100 4))) = some 1 ∧
      reg 0x08 (exec .sstep (onByte .sstep [at1 0x100 .refused])) = some 0x14 := by decide

theorem witness_StepRunsTheScheduledMicroOp :
    (onByte .sstep).eng.status.busy = true ∧ (onByte .sstep).eng.seq = some (onSeq .sstep) ∧
      (onSeq .sstep).sched[(onSeq .sstep).upc]? = some 0x02000000 ∧ decodeUop 0x02000000 = .ok .sstep ∧
      (onByte .sstep).turns = [] ∧ ({ onByte .sstep with turns := [.engine] } : State).turns = .engine :: [] ∧
      ({ State.reset with turns := [.engine] } : State).eng.status.busy = false := by decide

/-- The Host's next line writes START.SCALAR to CTRL at REG_BASE + 4, with and without its turn given. -/
theorem witness_StepRunsTheCommandWritten :
    ({ State.reset with host := [.wr .word 4 1] } : State).host =
        .wr .word (State.reset.eng.build.regBase + 4) 1 :: [] ∧
      decodeCmd 1 = .ok (.startScalar 0) ∧ State.reset.eng.status.busy = false ∧ State.reset.turns = [] ∧
      ({ State.reset with turns := [.host] } : State).turns = .host :: [] ∧ State.reset.host = [] := by decide

theorem witness_PlacedWordIsRunNext :
    decodeTableWord 32 0x06000000 = some .vchunk ∧ decodeTableWord 32 7 = some (.startAuto 0) := by decide

/-- An instance at 0x2000 that runs over the 8 bytes at 0x100. -/
def atTwoThousand : Engine :=
  { (onByte .sstep).eng with build := { (onByte .sstep).eng.build with regBase := 0x2000 } }

/-- Two running instances on a port that is not coherent, the byte at 0x107 stored before and not cleaned. -/
def twoEngines : State :=
  { onByte .sstep with others := [atTwoThousand], platform := { regions := [], coherent := false }, uncleaned := [0x107] }

/-- R70 and R246: a store, and cleaning an uncleaned byte, race with the other instance's run too. -/
theorem test_other_instances_race :
    (twoEngines.hostStore 0x100 7).others.map Engine.isRaced = [true] ∧
      (twoEngines.hostClean 0x107 1).others.map Engine.isRaced = [true] ∧
      (twoEngines.hostClean 0x100 7).others.map Engine.isRaced = [false] := by decide

/-- R75: without coherence a stored byte is a draw until it is cleaned, and no longer. -/
theorem test_cleaning_ends_a_stale_read :
    (State.hostStore { State.reset with platform := twoEngines.platform } 0x100 7).isDraw 0x100 = true ∧
      ((State.hostStore { State.reset with platform := twoEngines.platform } 0x100 7).hostClean 0x100 1).isDraw 0x100 =
        false := by decide

/-- The last aligned word of the block, and misaligned and sub-word accesses of it; the address below it; the first and
the last of another block; and the first past both. -/
theorem witness_HostReadsHaveNoSideEffect :
    ((0x10FC : Word) - (onByte .sstep).eng.build.regBase).toNat < 256 ∧
      ((0x10FC : Word) - (onByte .sstep).eng.build.regBase).toNat % 4 = 0 ∧
      ((0x10FF : Word) - (onByte .sstep).eng.build.regBase).toNat < 256 ∧
      ((0x10FF : Word) - (onByte .sstep).eng.build.regBase).toNat % 4 ≠ 0 ∧ AccessWidth.half ≠ .word ∧
      256 ≤ ((0x0FFF : Word) - (onByte .sstep).eng.build.regBase).toNat ∧ twoEngines.others[0]? = some atTwoThousand ∧
      256 ≤ ((0x2000 : Word) - twoEngines.eng.build.regBase).toNat ∧
      ((0x2000 : Word) - atTwoThousand.build.regBase).toNat < 256 ∧
      ((0x20FF : Word) - atTwoThousand.build.regBase).toNat < 256 ∧
      256 ≤ ((0x2100 : Word) - twoEngines.eng.build.regBase).toNat ∧
      ∀ e ∈ twoEngines.others, 256 ≤ ((0x2100 : Word) - e.build.regBase).toNat := by decide

/-- Each read-only register, and the first and the last reserved offset; also the last clause of
RegistersReadAsTheMapSays. -/
theorem witness_ReadOnlyAndReservedWritesAreIgnored :
    ∀ off ∈ [0x00, 0x08, 0x14, 0x18, 0x1C, 0x20, 0xFC],
      off = 0x00 ∨ off = 0x08 ∨ off = 0x14 ∨ off = 0x18 ∨ off = 0x1C ∨ 0x20 ≤ off := by decide

theorem witness_CtrlWriteWithoutStartStoresEngine :
    State.reset.eng.status.busy = false ∧ (0xFFFFFFFE : Word).getLsbD 0 = false := by decide

theorem witness_PollRepeatsWhileBusy :
    (onByte .sstep).eng.status.busy = true ∧ State.reset.eng.status.busy = false := by decide

/-- The last byte of the running buffer and the first one past it; a machine with no operation; and two running instances
with 0x107 uncleaned and 0x106 not. -/
theorem witness_HostStoreIsSeenOrRaces :
    (onByte .sstep).mem.wf = true ∧ (onByte .sstep).eng.seq = some (onSeq .sstep) ∧
      (onSeq .sstep).base.toNat ≤ (0x107 : Word).toNat ∧
      (0x107 : Word).toNat < (onSeq .sstep).base.toNat + (onSeq .sstep).n.toNat ∧
      ¬ ((onSeq .sstep).base.toNat ≤ (0x108 : Word).toNat ∧
        (0x108 : Word).toNat < (onSeq .sstep).base.toNat + (onSeq .sstep).n.toNat) ∧
      State.reset.platform.coherent = true ∧ State.reset.eng.seq = none ∧
      twoEngines.mem.wf = true ∧ twoEngines.platform.coherent = false ∧ 0x107 ∈ twoEngines.uncleaned ∧
      twoEngines.others[0]? = some atTwoThousand ∧ atTwoThousand.seq = some (onSeq .sstep) ∧
      twoEngines.eng.seq = some (onSeq .sstep) ∧ (onSeq .sstep).raced = [] ∧ 0x106 ∉ twoEngines.uncleaned := by decide

theorem witness_HostAccessesDoNotDisturbARun :
    (onByte .sstep).eng.status.busy = true ∧ ((0x1004 : Word) - (onByte .sstep).eng.build.regBase).toNat < 256 ∧
      goesOn (State.hostLine (onByte .sstep) (.wr .word 0x1004 7)) ∧
      goesOn (State.hostLine (onByte .sstep) (.rd .word 0x1004)) ∧
      goesOn (State.hostLine (onByte .sstep) (.poll 0x1008)) := by decide

/-- A reset in the middle of an operation. -/
theorem witness_BlockResetClearsTheInstance :
    ({ onByte .sstep with turns := [.reset] } : State).turns = .reset :: [] := by decide

theorem witness_ScheduleConsumesTheBuffer :
    (buildOf 1 true).legal = true ∧ (buildOf 5552 true).legal = true := by decide

theorem witness_ShortInputsAndTheAbsentTier :
    15 < 16 ∧ 3 < (buildOf 4 true).w ∧ (idle (buildOf 4 false) 0x100 100).build.hasVector = false ∧
      (idle (buildOf 4 false) 0x100 100).status.busy = false ∧ (Instr.startAuto 0).isCommand = true ∧
      reg 0x08 (exec (.startAuto 0) (machine (idle (buildOf 4 false) 0x100 100))) = some 1 ∧
      steps (exec (.startAuto 0) (machine (idle (buildOf 4 false) 0x100 100))) = some 103 := by decide

/-- The largest reduced pair. -/
theorem witness_ScalarClosedForm : (65520 : Word).toNat < 65521 := by decide

/-- A full segment from the largest reduced pair. -/
theorem witness_BatchedSegmentNeverWraps :
    (List.replicate 5552 (0xFF : Byte)).length ≤ 5552 ∧ (65520 : Word).toNat ≤ 65520 :=
  ⟨List.length_replicate.le, by decide⟩

theorem witness_BatchedSegmentEqualsScalar :
    (List.replicate 5552 (0xFF : Byte)).length ≤ 5552 ∧ (65520 : Word).toNat < 65521 :=
  ⟨List.length_replicate.le, by decide⟩

/-- The chunks of V22, and the widest build with its one chunk. -/
theorem witness_VectorSuperBlockEqualsScalar :
    (∀ c ∈ ([[1, 2, 3, 4], [5, 6, 7, 8]] : List (List Byte)), c.length = 4) ∧
      ([[1, 2, 3, 4], [5, 6, 7, 8]] : List (List Byte)).length * 4 ≤ 5552 ∧
      (∀ c ∈ [List.replicate 5552 (0xFF : Byte)], c.length = 5552) :=
  ⟨by decide, by decide, fun c h => by rw [List.mem_singleton.1 h]; exact List.length_replicate⟩

theorem witness_VectorDatapathNeverWraps :
    (∀ c ∈ [List.replicate 5552 (0xFF : Byte)], c.length = 5552) ∧
      [List.replicate 5552 (0xFF : Byte)].length * 5552 ≤ 5552 ∧ (65520 : Word).toNat ≤ 65520 :=
  ⟨fun c h => by rw [List.mem_singleton.1 h]; exact List.length_replicate, (Nat.one_mul 5552).le, by decide⟩

/-! ### Witnesses of the invariant and of whole operations -/

/-- An idle machine whose buffer is the last two bytes of the space, on a build with two lanes. -/
def atTheTop : State := machine (idle (buildOf 2 true) 0xFFFFFFFE 2)

/-- The same machine right after START.AUTO: EFF = VECTOR, SCHED = SEED, VBEGIN, VCHUNK, VRECON, PACK. -/
def atTheTopStarted : State := atTheTop.startCommand 0b11

/-- The sequencer of that operation after SEED and VBEGIN. -/
def midSeq : Sequencer :=
  { base := 0xFFFFFFFE, n := 2, ptr := 0xFFFFFFFE, eff := .vector, sched := schedule (buildOf 2 true) .vector 2, upc := 2,
    raced := [] }

/-- The machine in that operation, inside the super-block. -/
def midRun : State :=
  machine { idle (buildOf 2 true) 0xFFFFFFFE 2 with
    status := Status.started
    acc := some ⟨1, 0⟩
    blk := some (Block.opened 2 1)
    seq := some midSeq }

theorem midRun_inv : midRun.Inv where
  mem_wf := by decide
  eng :=
    { build_legal := by decide
      status_legal := by decide
      result_reduced := by decide
      no_tier := by decide
      idle := fun h => absurd h (by decide)
      running := fun _ =>
        ⟨midSeq, ⟨.reduced, some 0⟩, rfl,
          { sched_eq := rfl
            tier_built := by decide
            in_space := .inr (by decide)
            upc_lt := by decide
            ptr_eq := by decide },
          { present := fun _ => ⟨_, rfl⟩
            reduced := fun _ => ⟨_, rfl, by decide⟩
            block := fun l h => by cases h; exact ⟨_, rfl, rfl, by decide, by decide, rfl⟩ },
          by decide⟩ }
  others := fun e h => by cases h

/-- A state in the middle of a vector operation meets the invariant and has a next step. -/
theorem witness_StepKeepsTheInvariant : midRun.Inv ∧ goesOn (step midRun) = true := ⟨midRun_inv, by decide⟩

theorem witness_NoStepFaultsUnderTheInvariant : midRun.Inv := midRun_inv

theorem atTheTop_accepted : Accepted (.startAuto 0) atTheTop atTheTopStarted :=
  ⟨by decide, by decide, by decide, rfl, rfl, by decide⟩

theorem atTheTop_readable : atTheTop.Readable atTheTop.eng.srcAddr atTheTop.eng.length.toNat := fun _ _ => rfl

/-- An accepted operation over the last two bytes of the space, all of them readable and visible. -/
theorem witness_OperationComputesAdler32 :
    Accepted (.startAuto 0) atTheTop atTheTopStarted ∧
      atTheTop.Readable atTheTop.eng.srcAddr atTheTop.eng.length.toNat ∧
      atTheTop.Visible atTheTop.eng.srcAddr atTheTop.eng.length.toNat :=
  ⟨atTheTop_accepted, atTheTop_readable, .inl rfl⟩

/-- LENGTH = 0, on a build without the vector tier for a command that does not need it. -/
theorem witness_ZeroLengthReturnsTheSeed :
    (Instr.startAuto 0).isCommand = true ∧ (idle (buildOf 16 false) 0xFFFFFFFF 0).status.busy = false ∧
      (machine (idle (buildOf 16 false) 0xFFFFFFFF 0)).turns = [] ∧
      (idle (buildOf 16 false) 0xFFFFFFFF 0).length = 0 ∧ (buildOf 16 false).legal = true ∧
      ∀ x, Instr.startAuto 0 ≠ .startVector x :=
  ⟨by decide, by decide, by decide, by decide, by decide, fun _ h => by cases h⟩

/-- The same bytes read by another command on another build at another address. -/
theorem witness_ResultDependsOnTheBytesAlone :
    let r := machine (idle (buildOf 4 false) 0x200 2)
    Accepted (.startScalar 0) r (r.startCommand 0b00) ∧ r.Readable r.eng.srcAddr r.eng.length.toNat ∧
      r.Visible r.eng.srcAddr r.eng.length.toNat ∧
      atTheTop.mem.bytes atTheTop.eng.srcAddr atTheTop.eng.length.toNat =
        r.mem.bytes r.eng.srcAddr r.eng.length.toNat :=
  ⟨⟨by decide, by decide, by decide, rfl, rfl, by decide⟩, fun _ _ => rfl, .inl rfl, by decide⟩

/-- The last byte of the buffer is refused. -/
theorem witness_FaultAddressIsTheLowestRefused :
    let s := machine (idle (buildOf 2 true) 0xFFFFFFFE 2) [] [at1 0xFFFFFFFF .refused]
    Accepted (.startAuto 0) s (s.startCommand 0b11) ∧ 1 < s.eng.length.toNat ∧ s.Readable s.eng.srcAddr 1 ∧
      s.platform.answer (byteAddr s.eng.srcAddr 1) = .refused :=
  ⟨⟨by decide, by decide, by decide, rfl, rfl, by decide⟩, by decide, fun i h => by
    obtain rfl : i = 0 := by omega
    decide, by decide⟩

theorem witness_OperationTerminates :
    midRun.Inv ∧ midRun.turns = [] ∧ midRun.eng.status.busy = true ∧ midRun.eng.seq = some midSeq ∧
      midRun.ReadsComplete := ⟨midRun_inv, rfl, rfl, rfl, fun _ => .inl rfl⟩

end Sys2Proof.Tests
end

section
/-! PROOFS. What the state family's statements rest on: the fields of the register words, what every instruction may do
to STATUS and FAULT_ADDR, when a guard faults, and where a Host line goes. -/

namespace Sys2Proof.Machine

/-! ### The fields of the register words (10_state.md R23, R24, R29) -/

theorem ctrlWord_start (g : BitVec 2) : (ctrlWord g).extractLsb' 0 1 = 0 :=
  (BitVec.extractLsb'_append_eq_of_add_le (by decide)).trans BitVec.extractLsb'_append_eq_right

theorem ctrlWord_engine (g : BitVec 2) : (ctrlWord g).extractLsb' 1 2 = g :=
  (BitVec.extractLsb'_append_eq_of_add_le (by decide)).trans BitVec.extractLsb'_append_eq_left

theorem ctrlWord_reserved (g : BitVec 2) : (ctrlWord g).extractLsb' 3 29 = 0 := BitVec.extractLsb'_append_eq_left

/-- The four low bits of STATUS, BUSY lowest; bit 3 is reserved. -/
theorem Status.toWord_low (t : Status) :
    t.toWord.extractLsb' 0 4 = 0#1 ++ (BitVec.ofBool t.err ++ (BitVec.ofBool t.done ++ BitVec.ofBool t.busy)) :=
  (BitVec.extractLsb'_append_eq_of_add_le (by decide)).trans BitVec.extractLsb'_append_eq_right

/-- One of the four low bits of STATUS, as the bit of that small field. -/
theorem Status.toWord_getLsbD_low (t : Status) {i : Nat} (h : i < 4) :
    t.toWord.getLsbD i =
      (0#1 ++ (BitVec.ofBool t.err ++ (BitVec.ofBool t.done ++ BitVec.ofBool t.busy))).getLsbD i := by
  rw [← Status.toWord_low, BitVec.getLsbD_extractLsb', decide_eq_true h, Nat.zero_add, Bool.true_and]

theorem Status.toWord_busy (t : Status) : t.toWord.getLsbD 0 = t.busy := by
  simp only [Status.toWord_getLsbD_low t (show 0 < 4 by decide), BitVec.getLsbD_append]; simp

theorem Status.toWord_done (t : Status) : t.toWord.getLsbD 1 = t.done := by
  simp only [Status.toWord_getLsbD_low t (show 1 < 4 by decide), BitVec.getLsbD_append]; simp

theorem Status.toWord_err (t : Status) : t.toWord.getLsbD 2 = t.err := by
  simp only [Status.toWord_getLsbD_low t (show 2 < 4 by decide), BitVec.getLsbD_append]; simp

theorem Status.toWord_bit3 (t : Status) : t.toWord.getLsbD 3 = false := by
  simp only [Status.toWord_getLsbD_low t (show 3 < 4 by decide), BitVec.getLsbD_append]; simp

theorem Status.toWord_errcode (t : Status) : t.toWord.extractLsb' 4 4 = t.errcode :=
  (BitVec.extractLsb'_append_eq_of_add_le (by decide)).trans BitVec.extractLsb'_append_eq_left

theorem Status.toWord_reserved (t : Status) : t.toWord.extractLsb' 8 24 = 0 := BitVec.extractLsb'_append_eq_left

theorem paramWord_width (b : Build) : (paramWord b).extractLsb' 0 16 = BitVec.ofNat 16 b.w :=
  (BitVec.extractLsb'_append_eq_of_add_le (by decide)).trans BitVec.extractLsb'_append_eq_right

theorem paramWord_hasVector (b : Build) : (paramWord b).getLsbD 16 = b.hasVector := by
  show (0#15 ++ (BitVec.ofBool b.hasVector ++ BitVec.ofNat 16 b.w)).getLsbD 16 = b.hasVector
  rw [BitVec.getLsbD_append, BitVec.getLsbD_append]; simp

theorem paramWord_reserved (b : Build) : (paramWord b).extractLsb' 17 15 = 0 := BitVec.extractLsb'_append_eq_left

/-! ### Reserved offsets and read-only registers (10_state.md R20, R21) -/

theorem Engine.readReg_reserved (e : Engine) {off : Nat} (h : 0x20 ≤ off) : e.readReg off = 0 := by
  unfold Engine.readReg
  split
  case h_9 => rfl
  all_goals exact absurd h (by decide)

/-- Only SRC_ADDR and LENGTH are stored by a register write other than CTRL. -/
theorem Engine.writeReg_ignored (e : Engine) {off : Nat} (data : Word) (hs : off ≠ 0x0C) (hl : off ≠ 0x10) :
    e.writeReg off data = e := by
  unfold Engine.writeReg
  split
  · exact absurd rfl hs
  · exact absurd rfl hl
  · rfl

/-- A write at any offset but CTRL, SRC_ADDR and LENGTH leaves the whole state as it is. -/
theorem State.writeAt_ignored (s : State) {off : Nat} (data : Word) (hc : off ≠ 0x04) (hs : off ≠ 0x0C)
    (hl : off ≠ 0x10) : s.writeAt off data = .next s := by
  rw [State.writeAt, if_neg hc, Engine.writeReg_ignored _ _ hs hl]

/-! ### STATUS and FAULT_ADDR under every instruction (10_state.md R28, R37) -/

@[simp] theorem ErrorCause.faultAddr_readFault (old a : Word) : (ErrorCause.readFault a).faultAddr old = a := rfl

theorem Status.legal_started : Status.started.legal = true := rfl

theorem Status.legal_packed : Status.packed.legal = true := rfl

theorem Status.legal_failed (c : ErrorCause) : (Status.failed c).legal = true := by cases c <;> rfl

/-- START leaves STATUS rejected or started, whatever it was. -/
theorem Engine.start_status_legal (e : Engine) : e.start.status.legal = true := by
  obtain ⟨-, -, h⟩ | ⟨-, -, h⟩ | ⟨-, -, h⟩ := e.start_cases <;> rw [h]
  · exact Status.legal_failed _
  · exact Status.legal_failed _
  · exact Status.legal_started

theorem State.startCommand_status_legal {s : State} (engine : BitVec 2) (h : s.eng.status.legal = true) :
    (s.startCommand engine).eng.status.legal = true := by
  cases hb : s.eng.status.busy with
  | true => rwa [State.startCommand_busy engine hb]
  | false => rw [State.startCommand_idle engine hb]; exact Engine.start_status_legal _

@[simp] theorem State.startCommand_faultAddr (s : State) (engine : BitVec 2) :
    (s.startCommand engine).eng.faultAddr = s.eng.faultAddr := by
  unfold State.startCommand; split
  · rfl
  · exact Engine.start_faultAddr _

/-- What an instruction can do to STATUS and FAULT_ADDR: a command is a START, PACK shows DONE, a byte reader may raise
ReadFault at a refused address, and otherwise both keep their values. -/
theorem exec_status_cases {i : Instr} {s t : State} (h : exec i s = .next t) :
    (i.isCommand = true ∧ t = s.startCommand (engineCode i)) ∨
    (i = .pack ∧ t.eng.status = Status.packed ∧ t.eng.faultAddr = s.eng.faultAddr) ∨
    ((i = .sstep ∨ i = .rstep ∨ i = .vchunk) ∧
      ∃ a, s.platform.answer a = .refused ∧ t = s.raise (.readFault a)) ∨
    (t.eng.status = s.eng.status ∧ t.eng.faultAddr = s.eng.faultAddr) := by
  have command : i.isCommand = true → i.isCommand = true ∧ t = s.startCommand (engineCode i) := fun hi =>
    ⟨hi, by rw [exec_command s hi] at h; cases h; rfl⟩
  cases i with
  | seed => cases h; exact .inr (.inr (.inr ⟨rfl, rfl⟩))
  | sstep =>
    obtain ⟨a, q, -, -, ⟨b, d, -, rfl⟩ | ⟨hr, rfl⟩ | ⟨-, rfl⟩⟩ := exec_sstep_next h
    · exact .inr (.inr (.inr ⟨rfl, rfl⟩))
    · exact .inr (.inr (.inl ⟨.inl rfl, q.ptr, hr, rfl⟩))
    · exact .inr (.inr (.inr ⟨rfl, rfl⟩))
  | rstep =>
    obtain ⟨a, q, -, -, ⟨b, d, -, rfl⟩ | ⟨hr, rfl⟩ | ⟨-, rfl⟩⟩ := exec_rstep_next h
    · exact .inr (.inr (.inr ⟨rfl, rfl⟩))
    · exact .inr (.inr (.inl ⟨.inr (.inl rfl), q.ptr, hr, rfl⟩))
    · exact .inr (.inr (.inr ⟨rfl, rfl⟩))
  | reduce => obtain ⟨a, -, rfl⟩ := exec_reduce_next h; exact .inr (.inr (.inr ⟨rfl, rfl⟩))
  | vbegin => obtain ⟨-, a, -, -, rfl⟩ := exec_vbegin_next h; exact .inr (.inr (.inr ⟨rfl, rfl⟩))
  | vchunk =>
    obtain ⟨-, v, q, -, -, ⟨bs, d, -, -, rfl⟩ | ⟨r, hr, rfl⟩ | ⟨-, rfl⟩⟩ := exec_vchunk_next h
    · exact .inr (.inr (.inr ⟨rfl, rfl⟩))
    · exact .inr (.inr (.inl ⟨.inr (.inr rfl), r, State.memReads_refused s _ _ _ _ hr, rfl⟩))
    · exact .inr (.inr (.inr ⟨rfl, rfl⟩))
  | vrecon => obtain ⟨-, a, v, -, -, -, rfl⟩ := exec_vrecon_next h; exact .inr (.inr (.inr ⟨rfl, rfl⟩))
  | pack => obtain ⟨a, -, -, rfl⟩ := exec_pack_next h; exact .inr (.inl ⟨rfl, rfl, rfl⟩)
  | startScalar x | startBatched x | startVector x | startAuto x => exact .inl (command rfl)

/-! ### When a meaning stops with a model-only fault (10_state.md R38, 00_scope.md R16) -/

/-- The answer is a fault, under whatever name. -/
def Faults (r : Result) : Prop := ∃ f, r = .fault f

@[simp] theorem faults_fault (f : Fault) : Faults (.fault f) := ⟨f, rfl⟩

@[simp] theorem not_faults_next (t : State) : ¬ Faults (.next t) := fun ⟨_, h⟩ => nomatch h

theorem withAccum_faults {s : State} {k : Accum → Result} :
    Faults (withAccum s k) ↔ ∀ a, s.eng.acc = some a → Faults (k a) := by
  unfold withAccum; cases s.eng.acc <;> simp

theorem withBlock_faults {s : State} {k : Block → Result} :
    Faults (withBlock s k) ↔ ∀ v, s.eng.blk = some v → Faults (k v) := by
  unfold withBlock; cases s.eng.blk <;> simp

theorem withSequencer_faults {s : State} {k : Sequencer → Result} :
    Faults (withSequencer s k) ↔ ∀ q, s.eng.seq = some q → Faults (k q) := by
  unfold withSequencer; cases s.eng.seq <;> simp

theorem asserting_faults {p : Bool} {r : Result} : Faults (asserting p r) ↔ (p = true → Faults r) := by
  unfold asserting; cases p <;> simp

/-- SSTEP and RSTEP read S1, S2 and PTR; where nothing later can fault, they fault exactly when one of these has no
value. -/
theorem withAccum_withSequencer_faults {s : State} {k : Accum → Sequencer → Result}
    (hk : ∀ a q, ¬ Faults (k a q)) :
    Faults (withAccum s fun a => withSequencer s (k a)) ↔ s.eng.acc = none ∨ s.eng.seq = none := by
  simp only [withAccum_faults, withSequencer_faults]
  cases ha : s.eng.acc with
  | none => simp
  | some a =>
    cases hq : s.eng.seq with
    | none => simp
    | some q => simpa using hk a q

/-- Where the byte at `a` answers, a micro-op that reads it goes on with that byte. -/
theorem withReply_memRead {s : State} {a : Word} {d : Nat} (k : Byte → State → Result)
    (h : s.platform.answer a = .answers) :
    withReply s (s.memRead a d) k = k (s.readValue a d) { s with draws := s.drawsAfter a d } := by
  rw [State.memRead_eq_got.2 ⟨h, rfl, rfl⟩]; rfl

theorem exec_sstep_faults {s : State} (h : ∀ a, s.platform.answer a = .answers) :
    Faults (exec .sstep s) ↔ s.eng.acc = none ∨ s.eng.seq = none :=
  withAccum_withSequencer_faults fun a q => by rw [withReply_memRead _ (h q.ptr)]; exact not_faults_next _

theorem exec_rstep_faults {s : State} (h : ∀ a, s.platform.answer a = .answers) :
    Faults (exec .rstep s) ↔ s.eng.acc = none ∨ s.eng.seq = none :=
  withAccum_withSequencer_faults fun a q => by rw [withReply_memRead _ (h q.ptr)]; exact not_faults_next _

theorem exec_reduce_faults (s : State) : Faults (exec .reduce s) ↔ s.eng.acc = none := by
  rw [exec, execReduce, withAccum_faults]
  simp [Option.eq_none_iff_forall_ne_some]

/-- A pair fails the assertion of PACK and VBEGIN exactly when a sum is at least MOD. -/
theorem asserting_isReduced_faults (a : Accum) (t : State) :
    Faults (asserting a.isReduced (.next t)) ↔ 65521 ≤ a.s1.toNat ∨ 65521 ≤ a.s2.toNat := by
  rw [asserting_faults, Accum.isReduced_iff]
  simp only [not_faults_next, imp_false]
  omega

theorem exec_pack_faults (s : State) :
    Faults (exec .pack s) ↔ ∀ a, s.eng.acc = some a → 65521 ≤ a.s1.toNat ∨ 65521 ≤ a.s2.toNat := by
  simp only [exec, execPack, withAccum_faults, asserting_isReduced_faults]

theorem exec_vbegin_faults {s : State} (hv : s.eng.build.hasVector = true) :
    Faults (exec .vbegin s) ↔ ∀ a, s.eng.acc = some a → 65521 ≤ a.s1.toNat ∨ 65521 ≤ a.s2.toNat := by
  simp only [exec, execVbegin, withVectorTier_true _ hv, withAccum_faults, asserting_isReduced_faults]

theorem Block.mayReconcile_iff (v : Block) (s2 : Word) :
    v.mayReconcile s2 = true ↔ v.blen.toNat ≤ 5552 ∧ v.s1e.toNat < 65521 ∧ s2.toNat < 65521 := by
  simp [Block.mayReconcile, and_assoc]

theorem asserting_mayReconcile_faults (v : Block) (s2 : Word) (t : State) :
    Faults (asserting (v.mayReconcile s2) (.next t)) ↔
      5552 < v.blen.toNat ∨ 65521 ≤ v.s1e.toNat ∨ 65521 ≤ s2.toNat := by
  rw [asserting_faults, Block.mayReconcile_iff]
  simp only [not_faults_next, imp_false]
  omega

theorem exec_vrecon_faults {s : State} (hv : s.eng.build.hasVector = true) :
    Faults (exec .vrecon s) ↔ ∀ a v, s.eng.acc = some a → s.eng.blk = some v →
      5552 < v.blen.toNat ∨ 65521 ≤ v.s1e.toNat ∨ 65521 ≤ a.s2.toNat := by
  simp only [exec, execVrecon, withVectorTier_true _ hv, withAccum_faults, withBlock_faults,
    asserting_mayReconcile_faults]
  exact forall_congr' fun a => forall_comm

/-- Where all its reads answer, a chunk read faults exactly when the assertion after it fails. -/
theorem withReply_memReads_asserting_faults {s : State} {q : Sequencer} {p : Bool} {k : List Byte → State → State}
    (h : ∀ a, s.platform.answer a = .answers) :
    Faults (withReply s (s.memReads s.eng.build.w q.ptr s.draws) fun bytes s' =>
      asserting p (.next (k bytes s'))) ↔ p = false := by
  obtain ⟨bytes, d, hr, -⟩ := State.memReads_got s s.eng.build.w q.ptr s.draws fun k _ => h _
  rw [hr]
  show Faults (asserting p _) ↔ _
  simp [asserting_faults]

theorem exec_vchunk_faults {s : State} (hv : s.eng.build.hasVector = true)
    (h : ∀ a, s.platform.answer a = .answers) :
    Faults (exec .vchunk s) ↔
      s.eng.seq = none ∨ ∀ v, s.eng.blk = some v → 5552 < v.blen.toNat + s.eng.build.w := by
  simp only [exec, execVchunk, withVectorTier_true _ hv, withBlock_faults, withSequencer_faults,
    withReply_memReads_asserting_faults h, decide_eq_false_iff_not, Config.nmax_eq, not_le]
  cases s.eng.seq <;> simp

/-! ### Where a Host line goes (10_state.md R20, R21) -/

theorem hostLine_wr (s : State) (width : AccessWidth) (addr data : Word) :
    s.hostLine (.wr width addr data) = s.access width addr fun off s1 => s1.writeAt off data := rfl

theorem hostLine_rd (s : State) (width : AccessWidth) (addr : Word) :
    s.hostLine (.rd width addr) = s.access width addr fun off s1 => .next (s1.answerRead off) := rfl

theorem hostLine_poll (s : State) (addr : Word) :
    s.hostLine (.poll addr) = s.access .word addr fun off s1 =>
      if (s1.eng.readReg off).getLsbD 0 then .next { s1.answerRead off with host := .poll addr :: s1.host }
      else .next (s1.answerRead off) := rfl

/-- A register line is an access at its address, which asks of the state only which engine attends. -/
theorem hostLine_eq_access {line : HostLine} {addr : Word}
    (h : (∃ width data, line = .wr width addr data) ∨ (∃ width, line = .rd width addr) ∨ line = .poll addr) :
    ∃ width k, ∀ s : State, s.hostLine line = s.access width addr k := by
  obtain ⟨width, data, rfl⟩ | ⟨width, rfl⟩ | rfl := h
  · exact ⟨width, _, fun s => hostLine_wr s width addr data⟩
  · exact ⟨width, _, fun s => hostLine_rd s width addr⟩
  · exact ⟨.word, _, fun s => hostLine_poll s addr⟩

theorem Engine.holds_iff (e : Engine) (addr : Word) : e.holds addr = true ↔ e.offsetOf addr < 256 := by
  simp [Engine.holds]

theorem Engine.holds_eq_false_iff (e : Engine) (addr : Word) : e.holds addr = false ↔ 256 ≤ e.offsetOf addr := by
  simp [Engine.holds]

/-- An address outside every block is attended by no engine. -/
theorem State.attend_none {s : State} {addr : Word} (h : 256 ≤ s.eng.offsetOf addr)
    (ho : ∀ e ∈ s.others, 256 ≤ e.offsetOf addr) : s.attend addr = none := by
  have hf : s.others.findIdx? (fun e => e.holds addr) = none :=
    List.findIdx?_eq_none_iff.2 fun e he => (e.holds_eq_false_iff addr).2 (ho e he)
  simp [State.attend, (s.eng.holds_eq_false_iff addr).2 h, hf]

/-- An address outside the block in focus is attended by the first other engine whose block holds it. -/
theorem State.attend_other {s : State} {addr : Word} {k : Nat} {e : Engine} (h : 256 ≤ s.eng.offsetOf addr)
    (hk : s.others[k]? = some e) (he : e.offsetOf addr < 256)
    (hfirst : ∀ j e', j < k → s.others[j]? = some e' → 256 ≤ e'.offsetOf addr) :
    s.attend addr = some { s with eng := e, others := s.others.set k s.eng } := by
  obtain ⟨hlt, hget⟩ := List.getElem?_eq_some_iff.1 hk
  have hf : s.others.findIdx? (fun e => e.holds addr) = some k := by
    refine List.findIdx?_eq_some_iff_getElem.2 ⟨hlt, ?_, fun j hj => ?_⟩
    · rw [hget]; exact (e.holds_iff addr).2 he
    · rw [(Engine.holds_eq_false_iff _ addr).2 (hfirst j _ hj (List.getElem?_eq_getElem (by omega)))]; decide
  simp [State.attend, (s.eng.holds_eq_false_iff addr).2 h, hf, State.focusOn, hk]

theorem access_none {s : State} {addr : Word} (width : AccessWidth) (k : Nat → State → Result)
    (h : s.attend addr = none) : s.access width addr k = .refused .noRegisterBlock := by
  simp only [State.access, h]

/-- The engine that attends answers an access as if it had been in focus. -/
theorem access_congr {s t : State} {addr : Word} (width : AccessWidth) (k : Nat → State → Result)
    (h : s.attend addr = t.attend addr) : s.access width addr k = t.access width addr k := by
  simp only [State.access, h]

/-! ### Reset (10_state.md R40, 70_reset_and_hazards.md R261) -/

/-- An engine right after a block reset meets the invariant on every legal build. -/
theorem Engine.afterReset_inv {b : Build} (h : b.legal = true) : (Engine.afterReset b).Inv where
  build_legal := h
  status_legal := rfl
  result_reduced := show halvesReduced 0 = true by decide
  no_tier _ := rfl
  idle _ := ⟨rfl, rfl, rfl⟩
  running hb := nomatch hb

end Sys2Proof.Machine
end

section
/-! PROOFS. The statements of 10_state.md. -/

namespace Sys2Proof.Machine

/-- Settles O18: each guard of a meaning faults exactly where its register has no value or its assertion fails. -/
theorem unreachableFaultsWhereTheSpecSays : Obligations.UnreachableFaultsWhereTheSpecSays := by
  intro s hv h
  exact ⟨fun f hf => not_faults_next _ ⟨f, hf⟩, exec_sstep_faults h, exec_rstep_faults h, exec_reduce_faults s,
    exec_pack_faults s, exec_vbegin_faults hv, exec_vrecon_faults hv, exec_vchunk_faults hv h⟩

/-- Settles O25: of the cases of `exec_status_cases` only a ReadFault changes FAULT_ADDR. -/
theorem onlyAReadFaultWritesFaultAddr : Obligations.OnlyAReadFaultWritesFaultAddr := by
  intro i s t h hne
  obtain ⟨-, rfl⟩ | ⟨-, -, hf⟩ | ⟨hi, a, ha, rfl⟩ | ⟨-, hf⟩ := exec_status_cases h
  · exact absurd (State.startCommand_faultAddr s _) hne
  · exact absurd hf hne
  · exact ⟨hi, ha, rfl⟩
  · exact absurd hf hne

/-- Settles O26: STATUS is what START, PACK or a ReadFault writes, or it is unchanged. -/
theorem statusStaysLegal : Obligations.StatusStaysLegal := by
  intro i s t hs h
  obtain ⟨-, rfl⟩ | ⟨-, ht, -⟩ | ⟨-, a, -, rfl⟩ | ⟨ht, -⟩ := exec_status_cases h
  · exact State.startCommand_status_legal _ hs
  · rw [ht]; exact Status.legal_packed
  · exact Status.legal_failed _
  · rwa [ht]

/-- Settles O27: of the cases of `exec_status_cases` the last one leaves STATUS. -/
theorem onlyStartPackAndReadFaultWriteStatus : Obligations.OnlyStartPackAndReadFaultWriteStatus := by
  intro i s t h hne
  obtain ⟨hi, -⟩ | ⟨hi, -, -⟩ | ⟨hi, a, ha, ht⟩ | ⟨ht, -⟩ := exec_status_cases h
  · exact .inl hi
  · exact .inr (.inl hi)
  · exact .inr (.inr ⟨hi, a, ht, ha⟩)
  · exact absurd ht hne

/-- Settles O32, from the fields of the words that CTRL, STATUS and PARAM read as. -/
theorem registersReadAsTheMapSays : Obligations.RegistersReadAsTheMapSays := by
  intro e
  exact ⟨rfl, ctrlWord_start _, ctrlWord_engine _, ctrlWord_reserved _, Status.toWord_busy _, Status.toWord_done _,
    Status.toWord_err _, Status.toWord_bit3 _, Status.toWord_errcode _, Status.toWord_reserved _, rfl, rfl, rfl, rfl,
    paramWord_width _, paramWord_hasVector _, paramWord_reserved _, fun _ => e.readReg_reserved⟩

/-- Settles O33: an access goes to the block in focus, else to the first other engine that holds the address, and to
none where no block does. -/
theorem hostReadsHaveNoSideEffect : Obligations.HostReadsHaveNoSideEffect := by
  refine ⟨fun s width addr data h => ?_, ?_⟩
  · rw [hostLine_rd, hostLine_wr]
    refine ⟨?_, fun hbad => ⟨access_bad h hbad, access_bad h hbad⟩⟩
    rintro rfl h4
    exact ⟨access_self rfl h h4, access_self rfl h h4⟩
  · intro s line addr h hline
    obtain ⟨width, k, hk⟩ := hostLine_eq_access hline
    refine ⟨fun ho => ?_, fun n e hn he hfirst => ?_⟩
    · rw [hk, access_none width k (State.attend_none h ho)]
    · rw [hk, hk]
      have hfocus : State.attend { s with eng := e, others := s.others.set n s.eng } addr = _ := attend_self he
      exact access_congr width k ((State.attend_other h hn he hfirst).trans hfocus.symm)

/-- Settles O35: none of these offsets is CTRL, SRC_ADDR or LENGTH. -/
theorem readOnlyAndReservedWritesAreIgnored : Obligations.ReadOnlyAndReservedWritesAreIgnored := by
  intro s off data h
  exact State.writeAt_ignored s data (by omega) (by omega) (by omega)

/-- Settles O53: canonical memory, one engine right after its reset on the default build, and no other. -/
theorem resetMeetsTheInvariant : Obligations.ResetMeetsTheInvariant where
  mem_wf := State.reset_mem_wf
  eng := Engine.afterReset_inv (by decide)
  others _ he := nomatch he

end Sys2Proof.Machine
end

section
/-! PROOFS. What the memory family's statements rest on: an instruction moves only the engine in focus, which turns and
Host lines leave memory alone, and what writes of the Host's mark in a run and turn into draws. -/

namespace Sys2Proof.Machine

/-! ### Who writes memory (20_memory.md R64) -/

theorem State.startCommand_frame (s : State) (engine : BitVec 2) :
    ∃ e, s.startCommand engine = { s with eng := e } := by
  cases hb : s.eng.status.busy with
  | true => exact ⟨s.eng, State.startCommand_busy engine hb⟩
  | false => exact ⟨_, State.startCommand_idle engine hb⟩

/-- An instruction changes only the engine in focus and the counter of free values. -/
theorem exec_frame {i : Instr} {s t : State} (h : exec i s = .next t) :
    ∃ e d, t = { s with eng := e, draws := d } := by
  have command (hi : i.isCommand = true) : ∃ e d, t = { s with eng := e, draws := d } := by
    obtain ⟨e, he⟩ := s.startCommand_frame (engineCode i)
    rw [exec_command s hi, he] at h
    cases h
    exact ⟨e, s.draws, rfl⟩
  cases i with
  | seed => cases h; exact ⟨_, s.draws, rfl⟩
  | sstep =>
    obtain ⟨a, q, -, -, ⟨b, d, -, rfl⟩ | ⟨-, rfl⟩ | ⟨-, rfl⟩⟩ := exec_sstep_next h
    · exact ⟨_, d, rfl⟩
    · exact ⟨_, s.draws, rfl⟩
    · exact ⟨t.eng, t.draws, rfl⟩
  | rstep =>
    obtain ⟨a, q, -, -, ⟨b, d, -, rfl⟩ | ⟨-, rfl⟩ | ⟨-, rfl⟩⟩ := exec_rstep_next h
    · exact ⟨_, d, rfl⟩
    · exact ⟨_, s.draws, rfl⟩
    · exact ⟨t.eng, t.draws, rfl⟩
  | reduce => obtain ⟨a, -, rfl⟩ := exec_reduce_next h; exact ⟨_, s.draws, rfl⟩
  | vbegin => obtain ⟨-, a, -, -, rfl⟩ := exec_vbegin_next h; exact ⟨_, s.draws, rfl⟩
  | vchunk =>
    obtain ⟨-, v, q, -, -, ⟨bs, d, -, -, rfl⟩ | ⟨r, -, rfl⟩ | ⟨-, rfl⟩⟩ := exec_vchunk_next h
    · exact ⟨_, d, rfl⟩
    · exact ⟨_, s.draws, rfl⟩
    · exact ⟨t.eng, t.draws, rfl⟩
  | vrecon => obtain ⟨-, a, v, -, -, -, rfl⟩ := exec_vrecon_next h; exact ⟨_, s.draws, rfl⟩
  | pack => obtain ⟨a, -, -, rfl⟩ := exec_pack_next h; exact ⟨_, s.drawsAfterPack, rfl⟩
  | startScalar x | startBatched x | startVector x | startAuto x => exact command rfl

theorem exec_mem {i : Instr} {s t : State} (h : exec i s = .next t) : t.mem = s.mem := by
  obtain ⟨e, d, rfl⟩ := exec_frame h
  rfl

theorem engineTurn_mem {s t : State} (h : s.engineTurn = .next t) : t.mem = s.mem := by
  obtain ⟨-, rfl⟩ | ⟨-, q, w, i, -, -, -, h⟩ := engineTurn_eq_next h
  · rfl
  · exact exec_mem h

/-- A register write leaves memory alone, a command written to CTRL included. -/
theorem State.writeAt_mem {s t : State} {off : Nat} {data : Word} (h : s.writeAt off data = .next t) :
    t.mem = s.mem := by
  by_cases hoff : off = 0x04
  · subst hoff
    cases hd : decodeCmd data with
    | ok i => rw [writeAt_command hd] at h; exact exec_mem h
    | error r => rw [writeAt_setEngine hd] at h; cases h; exact State.setEngine_mem _ _
  · rw [State.writeAt, if_neg hoff] at h
    cases h
    rfl

theorem State.attend_mem {s t : State} {addr : Word} (h : s.attend addr = some t) : t.mem = s.mem := by
  obtain rfl | ⟨k, rfl⟩ := State.attend_cases h
  · rfl
  · exact s.focusOn_mem k

/-- A Host access leaves memory alone where its continuation does. -/
theorem State.access_mem {s t : State} {width : AccessWidth} {addr : Word} {k : Nat → State → Result}
    (hk : ∀ off s1, k off s1 = .next t → t.mem = s1.mem) (h : s.access width addr k = .next t) : t.mem = s.mem := by
  obtain ⟨s1, hs1, -, -, hnext⟩ := State.access_eq_next h
  exact (hk _ s1 hnext).trans (State.attend_mem hs1)

/-- A Host line is a store, or it leaves memory as it is. -/
theorem hostLine_mem_cases {s t : State} {line : HostLine} (h : s.hostLine line = .next t) :
    (∃ addr b, line = .store addr b ∧ t = s.hostStore addr b) ∨ t.mem = s.mem := by
  cases line with
  | wr width addr data =>
    rw [hostLine_wr] at h
    exact .inr (State.access_mem (fun _ _ => State.writeAt_mem) h)
  | rd width addr =>
    rw [hostLine_rd] at h
    exact .inr (State.access_mem (fun _ _ hk => by cases hk; rfl) h)
  | poll addr =>
    rw [hostLine_poll] at h
    refine .inr (State.access_mem (fun off s1 hk => ?_) h)
    split at hk <;> cases hk <;> rfl
  | store addr b => cases h; exact .inl ⟨addr, b, rfl, rfl⟩
  | clean lo size => cases h; exact .inr rfl

/-- A store of `b` at `addr` is what memory holds there from then on. -/
theorem State.hostStore_read_same {s : State} (addr : Word) (b : Byte) (h : s.mem.wf = true) :
    (s.hostStore addr b).mem.read addr.toNat = b :=
  Memory.read_write_same s.mem 0 addr.toNat b h (Nat.zero_le _)

/-! ### What a write of the Host's marks in a run (20_memory.md R70) -/

theorem Engine.runsOver_iff {e : Engine} {q : Sequencer} (h : e.seq = some q) (a : Nat) :
    e.RunsOver a ↔ q.covers a = true := by
  simp [Engine.RunsOver, h, Sequencer.covers_iff]

theorem Engine.not_runsOver_of_idle {e : Engine} (h : e.seq = none) (a : Nat) : ¬ e.RunsOver a := by
  rintro ⟨q, hq, -⟩
  rw [h] at hq
  cases hq

/-- The engine after the writes `l` is the engine raced by them. -/
theorem Engine.racedBy_noteWrites (e : Engine) {l : List Nat} {written : Nat → Prop} (hw : ∀ a, written a ↔ a ∈ l) :
    e.RacedBy (e.noteWrites l) written := by
  cases hq : e.seq with
  | none =>
    exact {
      untouched := fun _ => Engine.noteWrites_none hq l
      raced := fun q h => by rw [hq] at h; cases h
      result_open := fun a _ hr => absurd hr (Engine.not_runsOver_of_idle hq a) }
  | some q =>
    obtain ⟨r, he, hr, hsame⟩ := Engine.noteWrites_some l hq
    have hmarked (a : Nat) : a ∈ r ↔ a ∈ q.raced ∨ (written a ∧ e.RunsOver a) := by
      rw [hr, hw, Engine.runsOver_iff hq]
    exact {
      untouched := fun hnone => by
        have hclear : ∀ a ∈ l, q.covers a = false := fun a ha =>
          Bool.eq_false_iff.2 fun hc => hnone a ((hw a).2 ha) ((Engine.runsOver_iff hq a).2 hc)
        rw [he, hsame hclear, ← hq]
      raced := fun q' h => by
        obtain rfl : q = q' := Option.some.inj (hq.symm.trans h)
        exact ⟨r, he, hmarked⟩
      result_open := fun a ha hover => by
        have hmem : a ∈ r := (hmarked a).2 (.inr ⟨ha, hover⟩)
        rw [he, Engine.isRaced_some rfl]
        simpa using List.ne_nil_of_mem hmem }

theorem Engine.racedBy_noteWrite (e : Engine) (a : Nat) : e.RacedBy (e.noteWrite a) (fun x => x = a) :=
  e.racedBy_noteWrites (l := [a]) fun _ => List.mem_singleton.symm

/-- Each engine of a list is raced when all take note of the writes. -/
theorem Engine.racedBy_getElem?_map {f : Engine → Engine} {written : Nat → Prop}
    (hf : ∀ e : Engine, e.RacedBy (f e) written) (l : List Engine) (k : Nat) (e : Engine) (h : l[k]? = some e) :
    ∃ e', (l.map f)[k]? = some e' ∧ e.RacedBy e' written :=
  ⟨f e, by rw [List.getElem?_map, h]; rfl, hf e⟩

/-- The addresses marked in a run after writes: those before, and the written ones it covers. -/
theorem Engine.RacedBy.marked_iff {e e' : Engine} {written : Nat → Prop} (h : e.RacedBy e' written) (a : Nat) :
    (∃ q, e'.seq = some q ∧ a ∈ q.raced) ↔
      (∃ q, e.seq = some q ∧ a ∈ q.raced) ∨ (written a ∧ e.RunsOver a) := by
  cases hq : e.seq with
  | none =>
    rw [h.untouched fun a _ => Engine.not_runsOver_of_idle hq a]
    simp [hq, Engine.not_runsOver_of_idle hq a]
  | some q =>
    obtain ⟨r, rfl, hr⟩ := h.raced q hq
    simp [hr]

/-! ### Which reads are draws after a store or a cleaning (20_memory.md R70, R75) -/

theorem State.hostStore_uncleaned_coherent {s : State} (addr : Word) (b : Byte) (h : s.platform.coherent = true) :
    (s.hostStore addr b).uncleaned = s.uncleaned := by
  simp [h]

theorem State.hostStore_mem_uncleaned {s : State} (addr : Word) (b : Byte) (h : s.platform.coherent = false)
    (a : Nat) : a ∈ (s.hostStore addr b).uncleaned ↔ a = addr.toNat ∨ a ∈ s.uncleaned := by
  simp [h, mem_addAddr]

/-- A store turns only the reads of its own address into draws: on a port that is not coherent, or if the run in focus
covers it. -/
theorem State.hostStore_isDraw (s : State) (addr : Word) (b : Byte) (a : Word) :
    (s.hostStore addr b).isDraw a = true ↔
      s.isDraw a = true ∨ (a = addr ∧ (s.platform.coherent = false ∨ s.eng.RunsOver addr.toNat)) := by
  rw [State.isDraw_iff, State.isDraw_iff, State.hostStore_eng, (s.eng.racedBy_noteWrite addr.toNat).marked_iff,
    State.hostStore_platform]
  have hrun : a.toNat = addr.toNat ∧ s.eng.RunsOver a.toNat ↔ a = addr ∧ s.eng.RunsOver addr.toNat := by
    rw [BitVec.toNat_inj]
    exact and_congr_right fun h => by rw [h]
  have hstale : s.platform.coherent = false ∧ a.toNat ∈ (s.hostStore addr b).uncleaned ↔
      s.platform.coherent = false ∧ (a = addr ∨ a.toNat ∈ s.uncleaned) :=
    and_congr_right fun hc => by rw [State.hostStore_mem_uncleaned addr b hc, BitVec.toNat_inj]
  rw [hrun, hstale]
  grind

/-- A store leaves the draws at every other address as they were. -/
theorem State.hostStore_isDraw_other (s : State) {addr a : Word} (b : Byte) (h : a ≠ addr) :
    (s.hostStore addr b).isDraw a = s.isDraw a := by
  rw [Bool.eq_iff_iff, State.hostStore_isDraw]
  simp [h]

/-- On a coherent port with no operation in focus a stored byte is read as memory holds it. -/
theorem State.hostStore_isDraw_coherent_idle {s : State} (addr : Word) (b : Byte) (hc : s.platform.coherent = true)
    (hidle : s.eng.seq = none) : (s.hostStore addr b).isDraw addr = false := by
  rw [Bool.eq_false_iff, Ne, State.hostStore_isDraw, State.isDraw_iff]
  simp [hc, hidle, Engine.not_runsOver_of_idle hidle]

theorem State.hostClean_mem_uncleaned (s : State) (lo size a : Nat) :
    a ∈ (s.hostClean lo size).uncleaned ↔ a ∈ s.uncleaned ∧ ¬ (lo ≤ a ∧ a < lo + size) := by
  rw [← inRange_iff]; simp

/-- The bytes that a cleaning brings to memory: those of its range that were not yet cleaned. -/
theorem State.mem_cleaned (s : State) (lo size a : Nat) :
    (a ∈ s.uncleaned ∧ lo ≤ a ∧ a < lo + size) ↔ a ∈ s.uncleaned.filter (inRange lo size) := by
  rw [List.mem_filter, inRange_iff]

theorem Engine.racedBy_clean (s : State) (lo size : Nat) (e : Engine) :
    e.RacedBy (e.noteWrites (s.uncleaned.filter (inRange lo size)))
      (fun a => a ∈ s.uncleaned ∧ lo ≤ a ∧ a < lo + size) :=
  e.racedBy_noteWrites (s.mem_cleaned lo size)

/-- After a cleaning a read is a draw if its byte is outside the range and uncleaned on a port that is not coherent, if
it was marked, or if the run in focus covers it and it was uncleaned in the range. -/
theorem State.hostClean_isDraw (s : State) (lo size : Nat) (a : Word) :
    (s.hostClean lo size).isDraw a = true ↔
      (s.platform.coherent = false ∧ a.toNat ∈ s.uncleaned ∧ ¬ (lo ≤ a.toNat ∧ a.toNat < lo + size)) ∨
      (∃ q, s.eng.seq = some q ∧ a.toNat ∈ q.raced) ∨
      ((a.toNat ∈ s.uncleaned ∧ lo ≤ a.toNat ∧ a.toNat < lo + size) ∧ s.eng.RunsOver a.toNat) := by
  rw [State.isDraw_iff, State.hostClean_eng, (Engine.racedBy_clean s lo size s.eng).marked_iff,
    State.hostClean_mem_uncleaned, State.hostClean_platform]

/-- A cleaning leaves the draws outside its range as they were. -/
theorem State.hostClean_isDraw_outside (s : State) {lo size : Nat} {a : Word}
    (h : ¬ (lo ≤ a.toNat ∧ a.toNat < lo + size)) : (s.hostClean lo size).isDraw a = s.isDraw a := by
  rw [Bool.eq_iff_iff, State.hostClean_isDraw, State.isDraw_iff]
  simp [h]

end Sys2Proof.Machine
end

section
/-! PROOFS. The statements of 20_memory.md. -/

namespace Sys2Proof.Machine

/-- Settles O23: of instructions, Engine turns and Host lines only a store does not keep `mem`, and it changes its own
address alone. -/
theorem onlyAHostStoreWritesMemory : Obligations.OnlyAHostStoreWritesMemory := by
  refine ⟨fun i s t h a => by rw [exec_mem h], fun s t h a => by rw [engineTurn_mem h], ?_⟩
  intro s t line hwf h a hne
  obtain ⟨addr, b, rfl, rfl⟩ | hmem := hostLine_mem_cases h
  · have ha : a = addr.toNat := by
      by_contra hother
      exact hne (Memory.read_write_other s.mem addr.toNat b a hother)
    subst ha
    exact ⟨addr, b, rfl, rfl, State.hostStore_read_same addr b hwf⟩
  · exact absurd (by rw [hmem]) hne

/-- Settles O40: a store and a cleaning make every engine take note of the writes (`Engine.racedBy_noteWrites`), and
which reads are draws afterwards is said once for each (`State.hostStore_isDraw`, `State.hostClean_isDraw`). -/
theorem hostStoreIsSeenOrRaces : Obligations.HostStoreIsSeenOrRaces := by
  refine ⟨State.isDraw_iff, fun s addr b hwf => ?store, fun s lo size => ?clean⟩
  case store =>
    have hdraw := s.hostStore_isDraw addr b addr
    refine ⟨s.hostStore addr b, rfl, Memory.write_wf _ _ _ hwf addr.isLt, State.hostStore_read_same addr b hwf,
      Memory.read_write_other _ _ _, s.eng.racedBy_noteWrite _, List.length_map _,
      Engine.racedBy_getElem?_map (fun e => e.racedBy_noteWrite _) _, fun hover => ?_, fun hc => ⟨?_, ?_⟩,
      fun hc => ⟨?_, ?_⟩, fun a => s.hostStore_isDraw_other b, rfl, rfl, rfl, rfl, rfl⟩
    · exact hdraw.2 (.inr ⟨rfl, .inr hover⟩)
    · exact hdraw.2 (.inr ⟨rfl, .inl hc⟩)
    · exact State.hostStore_mem_uncleaned addr b hc
    · exact State.hostStore_uncleaned_coherent addr b hc
    · exact State.hostStore_isDraw_coherent_idle addr b hc
  case clean =>
    have hdraw := s.hostClean_isDraw lo size
    refine ⟨s.hostClean lo size, rfl, rfl, s.hostClean_mem_uncleaned lo size, Engine.racedBy_clean s lo size s.eng,
      List.length_map _, Engine.racedBy_getElem?_map (Engine.racedBy_clean s lo size) _, fun a hlo hhi => ⟨?_, ?_⟩,
      fun a => s.hostClean_isDraw_outside, rfl, rfl, rfl, rfl, rfl⟩
    · exact fun hmem hover => (hdraw a).2 (.inr (.inr ⟨⟨hmem, hlo, hhi⟩, hover⟩))
    · intro hunmarked hsafe
      rw [Bool.eq_false_iff, Ne, hdraw]
      rintro (⟨-, -, hout⟩ | ⟨q, hq, hmem⟩ | ⟨⟨hmem, -⟩, hover⟩)
      · exact hout ⟨hlo, hhi⟩
      · exact hunmarked q hq hmem
      · exact hsafe ⟨hmem, hover⟩

end Sys2Proof.Machine
end

section
/-! PROOFS. What the encoding family's statements rest on: the fields of UOP and CMD words, the words that each decoder
reads, the step after a placed word, and the stops of the vector tier and of reads with side effects. -/

namespace Sys2Proof

/-! ### The fields of a UOP word (30_encoding.md R81) -/

/-- A UOP word with Z = 0 is the word of its OPC. -/
theorem uopWord_opcOf {w : Word} (h : zOf w = 0) : uopWord (opcOf w) = w :=
  calc uopWord (opcOf w) = opcOf w ++ zOf w := by rw [h]; rfl
    _ = w.extractLsb' 0 32 := BitVec.extractLsb'_append_extractLsb'_eq_extractLsb' rfl
    _ = w := BitVec.extractLsb'_eq_self

theorem decodeUop_of_zOf_ne_zero {w : Word} (h : zOf w ≠ 0) : decodeUop w = .error .nonzeroZ := if_pos h

/-- A UOP word with Z = 0 is decoded by its OPC alone. -/
theorem decodeUop_of_zOf_eq_zero {w : Word} (h : zOf w = 0) :
    decodeUop w =
      if opcOf w = 0x01 then .ok .seed
      else if opcOf w = 0x02 then .ok .sstep
      else if opcOf w = 0x03 then .ok .rstep
      else if opcOf w = 0x04 then .ok .reduce
      else if opcOf w = 0x05 then .ok .vbegin
      else if opcOf w = 0x06 then .ok .vchunk
      else if opcOf w = 0x07 then .ok .vrecon
      else if opcOf w = 0x08 then .ok .pack
      else .error .reservedOpc := by
  rw [decodeUop, if_neg (not_not.2 h)]
  simp only [← BitVec.toNat_inj]
  split <;> simp_all

/-- The match is exact: a word that decodes to a micro-op is that micro-op's word (30_encoding.md R85). -/
theorem encode_of_decodeUop {w : Word} {i : Instr} (h : decodeUop w = .ok i) : encode i = w := by
  by_cases hz : zOf w = 0
  · rw [decodeUop_of_zOf_eq_zero hz] at h
    rw [← uopWord_opcOf hz]
    split_ifs at h with h1 h2 h3 h4 h5 h6 h7 h8 <;> cases h <;> exact congrArg uopWord (Eq.symm ‹_›)
  · rw [decodeUop_of_zOf_ne_zero hz] at h
    cases h

/-! ### The fields of a CMD word (30_encoding.md R82) -/

theorem engineOf_cmdWord (x : BitVec 29) (g : BitVec 2) : engineOf (cmdWord x g) = g :=
  (BitVec.extractLsb'_append_eq_of_add_le (by decide)).trans BitVec.extractLsb'_append_eq_left

theorem xOf_cmdWord (x : BitVec 29) (g : BitVec 2) : xOf (cmdWord x g) = x := BitVec.extractLsb'_append_eq_left

/-- The field START as a bit vector of one bit. -/
theorem extractLsb'_of_startOf {w : Word} (h : startOf w = true) : w.extractLsb' 0 1 = 1#1 := by
  ext k hk
  obtain rfl : k = 0 := by omega
  simpa [startOf] using h

/-- A CMD word with START set is the word of its fields X and ENGINE. -/
theorem cmdWord_xOf_engineOf {w : Word} (h : startOf w = true) : cmdWord (xOf w) (engineOf w) = w :=
  calc cmdWord (xOf w) (engineOf w) = xOf w ++ (engineOf w ++ w.extractLsb' 0 1) := by
        rw [extractLsb'_of_startOf h]; rfl
    _ = xOf w ++ w.extractLsb' 0 3 := congrArg _ (BitVec.extractLsb'_append_extractLsb'_eq_extractLsb' rfl)
    _ = w.extractLsb' 0 32 := BitVec.extractLsb'_append_extractLsb'_eq_extractLsb' rfl
    _ = w := BitVec.extractLsb'_eq_self

theorem decodeCmd_of_not_startOf {w : Word} (h : startOf w = false) : decodeCmd w = .error .noStart := by
  simp [decodeCmd, h]

/-- With START set every value of ENGINE is a command (30_encoding.md R87). -/
theorem decodeCmd_of_startOf {w : Word} (h : startOf w = true) : ∃ i, decodeCmd w = .ok i := by
  rw [decodeCmd, if_pos h]
  split <;> exact ⟨_, rfl⟩

/-- A command's word decodes to the command, X included. -/
theorem decodeCmd_encode (i : Instr) (h : i.isCommand = true) : decodeCmd (encode i) = .ok i := by
  have fields (x : BitVec 29) (g : BitVec 2) := And.intro (engineOf_cmdWord x g) (xOf_cmdWord x g)
  cases i with
  | startScalar x | startBatched x | startVector x | startAuto x =>
    simp [encode, decodeCmd, startOf_cmdWord, fields]
  | _ => cases h

/-- A word that decodes to a command is that command's word: ENGINE is one of four values, and X is kept. -/
theorem encode_of_decodeCmd {w : Word} {i : Instr} (h : decodeCmd w = .ok i) : encode i = w := by
  have hstart := decodeCmd_startOf h
  rw [← cmdWord_xOf_engineOf hstart]
  rw [decodeCmd, if_pos hstart] at h
  have hword {g : BitVec 2} (hg : (engineOf w).toNat = g.toNat) : cmdWord (xOf w) g = cmdWord (xOf w) (engineOf w) := by
    rw [BitVec.eq_of_toNat_eq hg]
  split at h <;> cases h
  case h_1 h0 => exact hword h0
  case h_2 h1 => exact hword h1
  case h_3 h2 => exact hword h2
  case h_4 h0 h1 h2 =>
    have hlt := (engineOf w).isLt
    rw [imp_false] at h0 h1 h2
    exact hword (g := 0b11) (show (engineOf w).toNat = 3 by omega)

/-! ### One decoder for the whole table -/

/-- Bit 0 of an instruction's word tells its format. -/
theorem startOf_encode (i : Instr) : startOf (encode i) = i.isCommand := by
  cases i with
  | startScalar x | startBatched x | startVector x | startAuto x => exact startOf_cmdWord _ _
  | _ => rfl

/-- The table's decoder reads `i` exactly from the word of `i`. -/
theorem decodeWord_eq_ok_iff {w : Word} {i : Instr} : decodeWord w = .ok i ↔ encode i = w := by
  constructor
  · intro h
    unfold decodeWord at h
    split at h
    · exact encode_of_decodeCmd h
    · exact encode_of_decodeUop h
  · rintro rfl
    rw [decodeWord, startOf_encode]
    cases hi : i.isCommand with
    | true => exact decodeCmd_encode i hi
    | false => exact decodeUop_encode i hi

/-- An instruction of the opcode table is read from its own word. -/
theorem encode_of_decodeTableWord {nbits w : Nat} {i : Instr} (h : decodeTableWord nbits w = some i) :
    encode i = BitVec.ofNat 32 w := by
  unfold decodeTableWord at h
  split at h
  · refine decodeWord_eq_ok_iff.1 ?_
    cases hd : decodeWord (BitVec.ofNat 32 w) with
    | ok j => rw [hd] at h; cases h; rfl
    | error r => rw [hd] at h; cases h
  · cases h

end Sys2Proof

namespace Sys2Proof.Machine

/-- A command's word carries its ENGINE value in bits [2:1] (30_encoding.md R82). -/
theorem engineOf_encode {i : Instr} (h : i.isCommand = true) : engineOf (encode i) = engineCode i := by
  cases i with
  | startScalar x | startBatched x | startVector x | startAuto x => exact engineOf_cmdWord x _
  | _ => cases h

/-- What a CMD word does depends on its ENGINE field alone (30_encoding.md R87). -/
theorem exec_of_decodeCmd {w : Word} {i : Instr} (s : State) (h : decodeCmd w = .ok i) :
    exec i s = .next (s.startCommand (engineOf w)) := by
  have hi := decodeCmd_isCommand h
  rw [exec_command s hi, ← engineOf_encode hi, encode_of_decodeCmd h]

theorem State.setEngine_idle {s : State} (engine : BitVec 2) (h : s.eng.status.busy = false) :
    s.setEngine engine = { s with eng := { s.eng with ctrlEngine := engine } } := by
  simp [State.setEngine, h]

/-! ### A placed word (log 10) -/

theorem State.placeWord_command {s : State} {w : Word} (h : startOf w = true) :
    s.placeWord w =
      { s with turns := .host :: s.turns, host := .wr .word (s.eng.build.regBase + 4) w :: s.host } := if_pos h

theorem State.placeWord_microOp {s : State} {w : Word} (h : startOf w = false) :
    s.placeWord w = { s with turns := .engine :: s.turns, eng := s.eng.withMicroOp w } := by
  simp [State.placeWord, h]

/-- The engine that issues a placed micro-op is BUSY and holds the word at UPC. -/
theorem Engine.withMicroOp_issues (e : Engine) (w : Word) :
    (e.withMicroOp w).status.busy = true ∧
      ∃ q, (e.withMicroOp w).seq = some q ∧ q.sched[q.upc]? = some w := by
  constructor
  · show (if e.status.busy then e.status else Status.started).busy = true
    split
    · assumption
    · rfl
  · exact ⟨_, rfl, by simp⟩

/-- A Host line that writes a command's word to CTRL of the engine in focus is that command. -/
theorem hostLine_ctrl_command {s : State} {w : Word} {i : Instr} (h : decodeCmd w = .ok i) :
    s.hostLine (.wr .word (s.eng.build.regBase + 4) w) = exec i s := by
  rw [hostLine_wr, access_self (offsetOf_base s.eng 4) (by decide) (by decide)]
  exact writeAt_command h

/-- A placed command is written to CTRL by the next turn. -/
theorem step_placeWord_command {s : State} {w : Word} {i : Instr} (h : decodeCmd w = .ok i) :
    step (s.placeWord w) = exec i s := by
  rw [State.placeWord_command (decodeCmd_startOf h), step_turn rfl]
  exact hostLine_ctrl_command h

/-- A placed micro-op is issued by the next turn. -/
theorem step_placeWord_microOp {s : State} {w : Word} {i : Instr} (hw : startOf w = false) (h : decodeUop w = .ok i) :
    step (s.placeWord w) = exec i { s with eng := s.eng.withMicroOp w } := by
  obtain ⟨hbusy, q, hq, hupc⟩ := s.eng.withMicroOp_issues w
  rw [State.placeWord_microOp hw, step_turn rfl]
  exact engineTurn_issue hbusy hq hupc h

/-! ### A POLL of STATUS (30_encoding.md R88) -/

/-- A POLL of STATUS of the engine in focus reads it, and stays the Host's next line exactly while BUSY = 1. -/
theorem hostLine_poll_status (s : State) :
    s.hostLine (.poll (s.eng.build.regBase + 8)) =
      if s.eng.status.busy then
        .next { s with lastRead := some s.eng.status.toWord, host := .poll (s.eng.build.regBase + 8) :: s.host }
      else .next { s with lastRead := some s.eng.status.toWord } := by
  rw [hostLine_poll, access_self (offsetOf_base s.eng 8) (by decide) (by decide), ← Status.toWord_busy]
  rfl

/-! ### The absent tier and reads with side effects (30_encoding.md R86, 20_memory.md R65) -/

theorem withVectorTier_false {s : State} (r : Result) (h : s.eng.build.hasVector = false) :
    withVectorTier s r = .fault .absentTier := by
  simp [withVectorTier, h]

theorem withReply_sideEffects {α : Type} (s : State) (k : α → State → Result) :
    withReply s .sideEffects k = .refused .sideEffectRead := rfl

theorem State.memRead_sideEffects {s : State} {a : Word} (d : Nat) (h : s.platform.answer a = .sideEffects) :
    s.memRead a d = .sideEffects := by
  simp [State.memRead, h]

/-- SSTEP and RSTEP at a byte whose read has side effects are refused. -/
theorem exec_byteReader_sideEffects {s : State} {a : Accum} {q : Sequencer} {i : Instr} (hi : i = .sstep ∨ i = .rstep)
    (ha : s.eng.acc = some a) (hq : s.eng.seq = some q) (h : s.platform.answer q.ptr = .sideEffects) :
    exec i s = .refused .sideEffectRead := by
  obtain rfl | rfl := hi
  · rw [exec, execSstep, withAccum_some _ ha, withSequencer_some _ hq, State.memRead_sideEffects _ h,
      withReply_sideEffects]
  · rw [exec, execRstep, withAccum_some _ ha, withSequencer_some _ hq, State.memRead_sideEffects _ h,
      withReply_sideEffects]

/-- VCHUNK is refused where the first byte of its chunk that does not answer has read side effects. -/
theorem exec_vchunk_sideEffects {s : State} {v : Block} {q : Sequencer} {k : Nat} (hv : s.eng.build.hasVector = true)
    (hb : s.eng.blk = some v) (hq : s.eng.seq = some q) (hk : k < s.eng.build.w)
    (hbefore : ∀ j, j < k → s.platform.answer (byteAddr q.ptr j) = .answers)
    (h : s.platform.answer (byteAddr q.ptr k) = .sideEffects) : exec .vchunk s = .refused .sideEffectRead := by
  obtain ⟨-, -, hstop⟩ := s.memReads_stops s.eng.build.w q.ptr s.draws k hk hbefore
  rw [exec, execVchunk, withVectorTier_true _ hv, withBlock_some _ hb, withSequencer_some _ hq, hstop h,
    withReply_sideEffects]

end Sys2Proof.Machine
end

section
/-! PROOFS. The statements of 30_encoding.md. -/

namespace Sys2Proof.Machine

/-- Settles O1: each word is the word of its instruction, and `decodeUop_encode` and `decodeCmd_encode` read it back. -/
theorem specWordsDecode : Obligations.SpecWordsDecode :=
  ⟨decodeUop_encode .seed rfl, decodeUop_encode .sstep rfl, decodeUop_encode .rstep rfl, decodeUop_encode .reduce rfl,
    decodeUop_encode .vbegin rfl, decodeUop_encode .vchunk rfl, decodeUop_encode .vrecon rfl,
    decodeUop_encode .pack rfl, decodeCmd_encode (.startScalar 0) rfl, decodeCmd_encode (.startBatched 0) rfl,
    decodeCmd_encode (.startVector 0) rfl, decodeCmd_encode (.startAuto 0) rfl,
    decodeCmd_encode (.startBatched 0x1FFFFFFF) rfl⟩

/-- Settles O2: bit 0 chooses the decoder, and each of the two reads exactly the words that the encoder writes. -/
theorem everyWordHasOneMeaning : Obligations.EveryWordHasOneMeaning := fun _ _ => decodeWord_eq_ok_iff

/-- Settles O3, from the two cases of Z and the exact match. -/
theorem uopDecodingIsTotalAndExact : Obligations.UopDecodingIsTotalAndExact :=
  ⟨fun _ => decodeUop_of_zOf_ne_zero, fun _ => decodeUop_of_zOf_eq_zero,
    fun _ _ h => ⟨(encode_of_decodeUop h).symm, decodeUop_isCommand h⟩⟩

/-- Settles O4: START decides whether there is a command, and ENGINE what it does. -/
theorem commandWordsUseBitsTwoToZero : Obligations.CommandWordsUseBitsTwoToZero := by
  refine ⟨fun w => decodeCmd_of_not_startOf, fun w h => ?_, fun w i s => exec_of_decodeCmd s⟩
  obtain ⟨i, hi⟩ := decodeCmd_of_startOf h
  exact ⟨i, hi, decodeCmd_isCommand hi⟩

/-- Settles O19: the tier is tested first, and the first read that does not answer decides. -/
theorem stopsUnderTheirNames : Obligations.StopsUnderTheirNames := by
  refine ⟨fun s hv => ⟨withVectorTier_false _ hv, withVectorTier_false _ hv, withVectorTier_false _ hv⟩, ?_⟩
  rintro s q k i hq h (⟨hi, rfl, a, ha⟩ | ⟨rfl, hk, hv, ⟨v, hb⟩, hbefore⟩)
  · exact exec_byteReader_sideEffects hi ha hq (byteAddr_zero q.ptr ▸ h)
  · exact exec_vchunk_sideEffects hv hb hq hk hbefore h

/-- Settles O31: the table word is the instruction's own word, so placing it puts it on the channel of its format. -/
theorem placedWordIsRunNext : Obligations.PlacedWordIsRunNext := by
  intro s nbits w i h
  unfold State.withFetchWord
  rw [← encode_of_decodeTableWord h]
  exact ⟨fun hi => step_placeWord_command (decodeCmd_encode i hi),
    fun hi => step_placeWord_microOp ((startOf_encode i).trans hi) (decodeUop_encode i hi)⟩

/-- Settles O36: without START the write is SETENG, and CTRL reads ENGINE back (`ctrlWord_engine`). -/
theorem ctrlWriteWithoutStartStoresEngine : Obligations.CtrlWriteWithoutStartStoresEngine := by
  intro s data hidle hstart
  refine ⟨?_, ctrlWord_engine _⟩
  rw [writeAt_setEngine (decodeCmd_of_not_startOf hstart), State.setEngine_idle _ hidle]
  rfl

/-- Settles O37: the two cases of BUSY in `hostLine_poll_status`. -/
theorem pollRepeatsWhileBusy : Obligations.PollRepeatsWhileBusy := by
  intro s
  rw [hostLine_poll_status]
  exact ⟨fun h => if_pos h, fun h => if_neg (by simp [h])⟩

end Sys2Proof.Machine
end

section
/-! PROOFS. What the lifecycle family's statements rest on: the word that PACK publishes, what each kind of instruction
may change, and the operation of LENGTH = 0. -/

namespace Sys2Proof.Machine

/-! ### The word that PACK publishes (40_lifecycle.md R105) -/

theorem asserting_false {p : Bool} (r : Result) (h : p = false) : asserting p r = .fault .assertionFailed := by
  simp [asserting, h]

/-- A sum below MOD fits into half a word. -/
theorem toNat_extractLsb'_half {x : Word} (h : x.toNat < 65521) : (x.extractLsb' 0 16).toNat = x.toNat := by
  rw [BitVec.extractLsb'_toNat, Nat.shiftRight_zero]
  exact Nat.mod_eq_of_lt (by omega)

/-- As a number the packed word is `S2 × 65536 + S1`. -/
theorem Accum.packed_toNat {a : Accum} (h : a.isReduced = true) : a.packed.toNat = a.s2.toNat * 65536 + a.s1.toNat := by
  obtain ⟨h1, h2⟩ := a.isReduced_iff.1 h
  rw [Accum.packed, BitVec.toNat_append, toNat_extractLsb'_half h1, toNat_extractLsb'_half h2,
    ← Nat.shiftLeft_add_eq_or_of_lt (by omega), Nat.shiftLeft_eq]

/-- The packed word is `(S2 << 16) | S1`. -/
theorem Accum.packed_eq_shiftLeft_or {a : Accum} (h : a.isReduced = true) : a.packed = (a.s2 <<< 16) ||| a.s1 := by
  obtain ⟨h1, h2⟩ := a.isReduced_iff.1 h
  apply BitVec.eq_of_toNat_eq
  have hshift : a.s2.toNat <<< 16 < 2 ^ 32 := by rw [Nat.shiftLeft_eq]; omega
  rw [Accum.packed_toNat h, BitVec.toNat_or, BitVec.toNat_shiftLeft, Nat.mod_eq_of_lt hshift,
    ← Nat.shiftLeft_add_eq_or_of_lt (by omega), Nat.shiftLeft_eq]

theorem Accum.packed_high (a : Accum) : a.packed.extractLsb' 16 16 = a.s2.extractLsb' 0 16 :=
  BitVec.extractLsb'_append_eq_left

theorem Accum.packed_low (a : Accum) : a.packed.extractLsb' 0 16 = a.s1.extractLsb' 0 16 :=
  BitVec.extractLsb'_append_eq_right

/-- Both halves of the packed word are at most 0xFFF0. -/
theorem Accum.packed_halves_le {a : Accum} (h : a.isReduced = true) :
    (a.packed.extractLsb' 16 16).toNat ≤ 0xFFF0 ∧ (a.packed.extractLsb' 0 16).toNat ≤ 0xFFF0 := by
  obtain ⟨h1, h2⟩ := a.isReduced_iff.1 h
  rw [Accum.packed_high, Accum.packed_low, toNat_extractLsb'_half h1, toNat_extractLsb'_half h2]
  omega

/-- PACK of a pair with a sum of at least MOD is the model-only fault. -/
theorem exec_pack_not_reduced {s : State} {a : Accum} (ha : s.eng.acc = some a) (hr : a.isReduced = false) :
    exec .pack s = .fault .assertionFailed := by
  rw [exec, execPack, withAccum_some _ ha, asserting_false _ hr]

/-! ### What each kind of instruction may change (40_lifecycle.md R100, R105, R106) -/

/-- START changes STATUS and the sequencer of its engine alone. -/
theorem Engine.start_frame (e : Engine) : ∃ st sq, e.start = { e with status := st, seq := sq } := by
  obtain ⟨-, -, h⟩ | ⟨-, -, h⟩ | ⟨-, -, h⟩ := e.start_cases
  · exact ⟨_, e.seq, h⟩
  · exact ⟨_, e.seq, h⟩
  · exact ⟨_, _, h⟩

/-- A command changes ENGINE, STATUS and the sequencer of the engine in focus alone. -/
theorem State.startCommand_eng_frame (s : State) (engine : BitVec 2) :
    ∃ g st sq, s.startCommand engine = { s with eng := { s.eng with ctrlEngine := g, status := st, seq := sq } } := by
  cases hb : s.eng.status.busy with
  | true => exact ⟨s.eng.ctrlEngine, s.eng.status, s.eng.seq, State.startCommand_busy engine hb⟩
  | false =>
    obtain ⟨st, sq, h⟩ := Engine.start_frame { s.eng with ctrlEngine := engine }
    exact ⟨engine, st, sq, by rw [State.startCommand_idle engine hb, h]⟩

/-- START never shows DONE. -/
theorem Engine.start_done (e : Engine) : e.start.status.done = false := by
  obtain ⟨-, -, h⟩ | ⟨-, -, h⟩ | ⟨-, -, h⟩ := e.start_cases <;> rw [h] <;> rfl

/-- A command does not raise DONE. -/
theorem State.startCommand_done {s : State} (engine : BitVec 2) (h : s.eng.status.done = false) :
    (s.startCommand engine).eng.status.done = false := by
  cases hb : s.eng.status.busy with
  | true => rwa [State.startCommand_busy engine hb]
  | false => rw [State.startCommand_idle engine hb]; exact Engine.start_done _

/-- A micro-op that reads no memory completes with new values in one group of datapath registers: VBEGIN in the
super-block registers and the lanes, the other three in S1 and S2. -/
theorem exec_registerMicroOp_next {i : Instr} {s t : State} (hi : i = .seed ∨ i = .reduce ∨ i = .vbegin ∨ i = .vrecon)
    (h : exec i s = .next t) :
    ∃ acc blk, t = s.complete { s.eng with acc := acc, blk := blk } ∧
      (i ≠ .vbegin → blk = s.eng.blk) ∧ (i = .vbegin → acc = s.eng.acc) := by
  obtain rfl | rfl | rfl | rfl := hi
  · rw [exec_seed] at h; cases h; exact ⟨_, _, rfl, fun _ => rfl, nofun⟩
  · obtain ⟨a, -, rfl⟩ := exec_reduce_next h; exact ⟨_, _, rfl, fun _ => rfl, nofun⟩
  · obtain ⟨-, a, -, -, rfl⟩ := exec_vbegin_next h; exact ⟨_, _, rfl, fun hne => absurd rfl hne, fun _ => rfl⟩
  · obtain ⟨-, a, v, -, -, -, rfl⟩ := exec_vrecon_next h; exact ⟨_, _, rfl, fun _ => rfl, nofun⟩

/-- A micro-op that reads bytes raises ReadFault or changes the datapath and the sequencer alone. -/
theorem exec_byteReader_next {i : Instr} {s t : State} (hi : i = .sstep ∨ i = .rstep ∨ i = .vchunk)
    (h : exec i s = .next t) :
    (∃ a, t = s.raise (.readFault a)) ∨
    ∃ acc blk sq, t.eng = { s.eng with acc := acc, blk := blk, seq := sq } := by
  obtain rfl | rfl | rfl := hi
  · obtain ⟨a, q, -, -, ⟨b, d, -, rfl⟩ | ⟨-, rfl⟩ | ⟨-, rfl⟩⟩ := exec_sstep_next h
    · exact .inr ⟨_, _, _, rfl⟩
    · exact .inl ⟨_, rfl⟩
    · exact .inr ⟨_, _, _, rfl⟩
  · obtain ⟨a, q, -, -, ⟨b, d, -, rfl⟩ | ⟨-, rfl⟩ | ⟨-, rfl⟩⟩ := exec_rstep_next h
    · exact .inr ⟨_, _, _, rfl⟩
    · exact .inl ⟨_, rfl⟩
    · exact .inr ⟨_, _, _, rfl⟩
  · obtain ⟨-, v, q, -, -, ⟨bs, d, -, -, rfl⟩ | ⟨r, -, rfl⟩ | ⟨-, rfl⟩⟩ := exec_vchunk_next h
    · exact .inr ⟨_, _, _, rfl⟩
    · exact .inl ⟨_, rfl⟩
    · exact .inr ⟨_, _, _, rfl⟩

/-- No instruction but PACK changes RESULT or raises DONE: a command changes ENGINE, STATUS and the sequencer, a
ReadFault keeps RESULT and shows ERR, and any other micro-op stays within the datapath and the sequencer. -/
theorem exec_publishes_nothing {i : Instr} {s t : State} (hi : i ≠ .pack) (h : exec i s = .next t) :
    t.eng.result = s.eng.result ∧ (s.eng.status.done = false → t.eng.status.done = false) := by
  cases i with
  | pack => exact absurd rfl hi
  | seed | reduce | vbegin | vrecon =>
    obtain ⟨acc, blk, rfl, -, -⟩ := exec_registerMicroOp_next (by simp) h
    exact ⟨rfl, id⟩
  | sstep | rstep | vchunk =>
    obtain ⟨a, rfl⟩ | ⟨acc, blk, sq, ht⟩ := exec_byteReader_next (by simp) h
    · exact ⟨rfl, fun _ => rfl⟩
    · rw [ht]; exact ⟨rfl, id⟩
  | startScalar x | startBatched x | startVector x | startAuto x =>
    rw [exec_command s rfl] at h
    cases h
    obtain ⟨g, st, sq, hs⟩ := s.startCommand_eng_frame _
    exact ⟨by rw [hs], State.startCommand_done _⟩

/-! ### The operation of LENGTH = 0 (40_lifecycle.md R107, 44_sequencer.md R195) -/

/-- With no turn given, a BUSY engine issues the micro-op at UPC. -/
theorem step_issue {s : State} {q : Sequencer} {w : Word} {i : Instr} (ht : s.turns = [])
    (hb : s.eng.status.busy = true) (hq : s.eng.seq = some q) (hw : q.sched[q.upc]? = some w)
    (hi : decodeUop w = .ok i) : step s = exec i s := by
  rw [step_default ht, defaultTurn_busy hb, engineTurn_issue hb hq hw hi]

/-- Every tier has the same schedule for an empty buffer. -/
theorem schedule_zero {b : Build} (hb : b.legal = true) (t : Tier) :
    schedule b t 0 = [encode .seed, encode .pack] := by
  have hw : 0 < b.w := by simp [Build.legal] at hb; omega
  cases t with
  | scalar => rfl
  | batched => rfl
  | vector => rw [schedule, microOps_vector, if_pos hw]; rfl

/-- START refuses an empty buffer only where the build lacks the tier asked for. -/
theorem Engine.start_of_length_zero {e : Engine} (hl : e.length = 0)
    (hv : e.ctrlEngine = 0b10 → e.build.hasVector = true) : e.start = e.accept := by
  obtain ⟨hg, hn, -⟩ | ⟨-, hpos, -⟩ | ⟨-, -, h⟩ := e.start_cases
  · rw [hv hg] at hn; cases hn
  · rw [hl] at hpos; exact absurd hpos (by decide)
  · exact h

/-- Of the commands only START.VECTOR asks for the vector tier. -/
theorem engineCode_eq_vector {i : Instr} (h : engineCode i = 0b10) : ∃ x, i = .startVector x := by
  cases i with
  | startVector x => exact ⟨x, rfl⟩
  | _ => cases h

/-- With LENGTH = 0 an idle engine accepts every command that its build has the tier for. -/
theorem exec_command_of_length_zero {i : Instr} {s : State} (hc : i.isCommand = true)
    (hidle : s.eng.status.busy = false) (hl : s.eng.length = 0)
    (hv : s.eng.build.hasVector = true ∨ ∀ x, i ≠ .startVector x) :
    exec i s = .next { s with eng := Engine.accept { s.eng with ctrlEngine := engineCode i } } := by
  have haccept := Engine.start_of_length_zero (e := { s.eng with ctrlEngine := engineCode i }) hl fun hg => by
    obtain ⟨x, rfl⟩ := engineCode_eq_vector hg
    exact hv.resolve_right fun hne => hne x rfl
  rw [exec_command s hc, State.startCommand_idle _ hidle, haccept]

theorem Engine.newSequencer_sched_of_length_zero {e : Engine} (hl : e.length = 0) (hb : e.build.legal = true) :
    e.newSequencer.sched = [encode .seed, encode .pack] := by
  rw [Engine.newSequencer_sched, hl]
  exact schedule_zero hb _

theorem packed_seed : Accum.packed { s1 := 1, s2 := 0 } = 0x00000001 := by decide

/-- The state that SEED completes in (`exec_seed`). -/
abbrev State.seeded (s : State) : State := s.complete { s.eng with acc := some { s1 := 1, s2 := 0 } }

/-- An engine that is about to run SEED and PACK, over a buffer that no agent has written, ends with the packed seed. -/
theorem run_seed_pack {s : State} {q : Sequencer} (ht : s.turns = []) (hb : s.eng.status.busy = true)
    (hq : s.eng.seq = some q) (hs : q.sched = [encode .seed, encode .pack]) (hu : q.upc = 0) (hr : q.raced = []) :
    ∃ t, Host.Core.run Sys2Proof.core 2 s = .next t ∧ t.eng.status = Status.packed ∧ t.eng.result = 0x00000001 := by
  have hseed : step s = .next s.seeded :=
    (step_issue ht hb hq (by rw [hs, hu]; rfl) (decodeUop_encode .seed rfl)).trans (exec_seed s)
  have hq' : s.seeded.eng.seq = some q.advance := by simp [hq]
  have hpack : step s.seeded = exec .pack s.seeded :=
    step_issue ht hb hq' (by simp [hs, hu]) (decodeUop_encode .pack rfl)
  have hraced : s.seeded.eng.isRaced = false := by rw [Engine.isRaced_some hq', Sequencer.advance_raced, hr]; rfl
  rw [exec_pack_settled rfl (by decide) hraced] at hpack
  exact ⟨_, (run_next 1 hseed).trans (run_next 0 hpack), rfl, packed_seed⟩

end Sys2Proof.Machine
end

section
/-! PROOFS. The statements of 40_lifecycle.md. -/

namespace Sys2Proof.Machine

/-- Settles O5: SEED reads nothing, so it completes from every state (`exec_seed`). -/
theorem seedWritesTheSeed : Obligations.SeedWritesTheSeed := ⟨rfl, exec_seed⟩

/-- Settles O12: the pair packed is reduced whatever happened to the buffer, and the forms of the word are those of a
reduced pair. -/
theorem packPublishesTheResult : Obligations.PackPublishesTheResult := by
  refine ⟨rfl, fun s a ha h1 h2 => ?_, fun s a ha h => ?_⟩
  · have hr := a.isReduced_iff.2 ⟨h1, h2⟩
    have hp := s.finalPair_isReduced hr
    obtain ⟨hhigh, hlow⟩ := Accum.packed_halves_le hp
    exact ⟨s.finalPair a, (s.finalPair a).packed, s.drawsAfterPack, fun hs => State.finalPair_settled hs a,
      Accum.packed_eq_shiftLeft_or hp, Accum.packed_toNat hp, rfl, hhigh, hlow, exec_pack_reduced ha hr⟩
  · have hr : a.isReduced = false := by rw [Bool.eq_false_iff, Ne, Accum.isReduced_iff]; omega
    exact exec_pack_not_reduced ha hr

/-- Settles O20: each of the four completes with new values in one group of datapath registers. -/
theorem registerMicroOpsFrame : Obligations.RegisterMicroOpsFrame := by
  intro i s t hi h
  have hseq : ∀ q, s.eng.seq = some q → s.eng.seq.map Sequencer.advance = some { q with upc := q.upc + 1 } :=
    fun q hq => by rw [hq]; rfl
  obtain ⟨acc, blk, rfl, hblk, hacc⟩ := exec_registerMicroOp_next hi h
  exact ⟨rfl, rfl, rfl, rfl, rfl, rfl, rfl, hblk, hacc, hseq, fun _ => rfl, rfl, rfl, rfl, rfl, rfl, rfl, rfl⟩

/-- Settles O22: what PACK writes is in `exec_pack_next`, what a command writes in `State.startCommand_eng_frame`. -/
theorem packAndCommandsFrame : Obligations.PackAndCommandsFrame := by
  intro i s t hi h
  obtain rfl | hc := hi
  · obtain ⟨a, -, -, rfl⟩ := exec_pack_next h
    have hdraws : Instr.pack ≠ .pack ∨ s.eng.isRaced = false → s.drawsAfterPack = s.draws
      | .inl hne => absurd rfl hne
      | .inr hs => (State.finalPair_settled hs a).2
    exact ⟨rfl, rfl, rfl, rfl, fun _ => rfl, fun hne => absurd rfl hne, fun _ => rfl, rfl, rfl, rfl, rfl, rfl,
      hdraws, rfl⟩
  · rw [exec_command s hc] at h
    cases h
    have hne : i ≠ .pack := by rintro rfl; cases hc
    obtain ⟨g, st, sq, hs⟩ := s.startCommand_eng_frame (engineCode i)
    rw [hs]
    exact ⟨rfl, rfl, rfl, rfl, fun hp => absurd hp hne, fun _ => ⟨rfl, rfl, rfl⟩, fun _ => rfl, rfl, rfl, rfl, rfl, rfl,
      fun _ => rfl, rfl⟩

/-- Settles O24: an instruction other than PACK publishes nothing (`exec_publishes_nothing`). -/
theorem onlyPackPublishes : Obligations.OnlyPackPublishes := by
  intro i s t h
  by_cases hi : i = .pack
  · exact ⟨fun _ => hi, fun _ _ => hi⟩
  · obtain ⟨hres, hdone⟩ := exec_publishes_nothing hi h
    refine ⟨fun hne => absurd hres hne, fun h0 h1 => ?_⟩
    rw [hdone h0] at h1
    cases h1

/-- Settles O57: every tier's schedule for an empty buffer is SEED and PACK (`schedule_zero`). -/
theorem zeroLengthReturnsTheSeed : Obligations.ZeroLengthReturnsTheSeed := by
  intro i s hc hidle ht hl hb hv
  have hsched := Engine.newSequencer_sched_of_length_zero (e := { s.eng with ctrlEngine := engineCode i }) hl hb
  have hstart := exec_command_of_length_zero hc hidle hl hv
  obtain ⟨t, hrun, hstatus, hresult⟩ := run_seed_pack (s := { s with
    eng := Engine.accept { s.eng with ctrlEngine := engineCode i } }) ht rfl rfl hsched rfl rfl
  exact ⟨_, _, t, hstart, rfl, rfl, hsched, hrun, hstatus, hresult⟩

end Sys2Proof.Machine
end

section
/-! PROOFS. What the scalar family's statements rest on: the read of the byte at PTR, what a byte reader can do, the
closed form of the recurrence, and the contract's sums as SSTEP's. -/

namespace Sys2Proof.Machine

/-! ### The byte at PTR (41_scalar.md R120) -/

/-- Where the byte at `a` is refused, a micro-op that reads it raises ReadFault at `a`. -/
theorem withReply_memRead_refused {s : State} {a : Word} (d : Nat) (k : Byte → State → Result)
    (h : s.platform.answer a = .refused) : withReply s (s.memRead a d) k = .next (s.raise (.readFault a)) := by
  rw [State.memRead_eq_refused.2 ⟨h, rfl⟩]; rfl

theorem exec_sstep_answers {s : State} {a : Accum} {q : Sequencer} (ha : s.eng.acc = some a) (hq : s.eng.seq = some q)
    (h : s.platform.answer q.ptr = .answers) :
    exec .sstep s = .next
      (s.afterByte (s.drawsAfter q.ptr s.draws) (a.stepReduced (s.readValue q.ptr s.draws)) q) := by
  rw [exec, execSstep, withAccum_some _ ha, withSequencer_some _ hq, withReply_memRead _ h]; rfl

/-- SSTEP and RSTEP at a refused byte raise ReadFault. -/
theorem exec_byteReader_refused {s : State} {a : Accum} {q : Sequencer} {i : Instr} (hi : i = .sstep ∨ i = .rstep)
    (ha : s.eng.acc = some a) (hq : s.eng.seq = some q) (h : s.platform.answer q.ptr = .refused) :
    exec i s = .next (s.raise (.readFault q.ptr)) := by
  obtain rfl | rfl := hi
  · rw [exec, execSstep, withAccum_some _ ha, withSequencer_some _ hq, withReply_memRead_refused _ _ h]
  · rw [exec, execRstep, withAccum_some _ ha, withSequencer_some _ hq, withReply_memRead_refused _ _ h]

/-! ### What a byte reader can do (41_scalar.md R120, 42_batched.md R140, 43_vector.md R163) -/

/-- A micro-op that reads bytes completes, with new values in one group of datapath registers and with PTR and UPC moved
on; or it raises ReadFault at a refused address; or its read is pending and nothing changes. -/
theorem exec_byteReader_cases {i : Instr} {s t : State} (hi : i = .sstep ∨ i = .rstep ∨ i = .vchunk)
    (h : exec i s = .next t) :
    ∃ q, s.eng.seq = some q ∧
      ((∃ acc blk k d, (i ≠ .vchunk → blk = s.eng.blk) ∧ (i = .vchunk → acc = s.eng.acc) ∧
          t = { s with draws := d, eng := { s.eng with acc := acc, blk := blk, seq := some (q.consume k).advance } }) ∨
        (∃ r, s.platform.answer r = .refused ∧ t = s.raise (.readFault r)) ∨ t = s) := by
  obtain rfl | rfl | rfl := hi
  · obtain ⟨a, q, -, hq, ⟨b, d, -, rfl⟩ | ⟨hr, rfl⟩ | ⟨-, rfl⟩⟩ := exec_sstep_next h
    · exact ⟨q, hq, .inl ⟨_, _, 1, d, fun _ => rfl, nofun, rfl⟩⟩
    · exact ⟨q, hq, .inr (.inl ⟨_, hr, rfl⟩)⟩
    · exact ⟨q, hq, .inr (.inr rfl)⟩
  · obtain ⟨a, q, -, hq, ⟨b, d, -, rfl⟩ | ⟨hr, rfl⟩ | ⟨-, rfl⟩⟩ := exec_rstep_next h
    · exact ⟨q, hq, .inl ⟨_, _, 1, d, fun _ => rfl, nofun, rfl⟩⟩
    · exact ⟨q, hq, .inr (.inl ⟨_, hr, rfl⟩)⟩
    · exact ⟨q, hq, .inr (.inr rfl)⟩
  · obtain ⟨-, v, q, -, hq, ⟨bs, d, -, -, rfl⟩ | ⟨r, hr, rfl⟩ | ⟨-, rfl⟩⟩ := exec_vchunk_next h
    · exact ⟨q, hq, .inl ⟨_, _, _, d, fun hne => absurd rfl hne, fun _ => rfl, rfl⟩⟩
    · exact ⟨q, hq, .inr (.inl ⟨r, State.memReads_refused s _ _ _ _ hr, rfl⟩)⟩
    · exact ⟨q, hq, .inr (.inr rfl)⟩

/-! ### The closed form of the recurrence (41_scalar.md R122) -/

theorem Accum.stepReduced_isReduced (a : Accum) (d : Byte) : (a.stepReduced d).isReduced = true := by
  rw [Accum.isReduced_iff, Accum.stepReduced_s1, Accum.stepReduced_s2]; omega

theorem foldl_stepReduced_isReduced {a : Accum} (h : a.isReduced = true) (ds : List Byte) :
    (ds.foldl Accum.stepReduced a).isReduced = true := by
  induction ds generalizing a with
  | nil => exact h
  | cons d ds ih => exact ih (a.stepReduced_isReduced d)

theorem foldl_stepReduced_s1_modEq (ds : List Byte) (a : Accum) :
    (ds.foldl Accum.stepReduced a).s1.toNat ≡ a.s1.toNat + byteSum ds [MOD 65521] := by
  induction ds generalizing a with
  | nil => exact .refl _
  | cons d ds ih =>
    calc (ds.foldl Accum.stepReduced (a.stepReduced d)).s1.toNat
      _ ≡ (a.s1.toNat + d.toNat) % 65521 + byteSum ds [MOD 65521] := by simpa using ih (a.stepReduced d)
      _ ≡ a.s1.toNat + d.toNat + byteSum ds [MOD 65521] := (Nat.mod_modEq _ _).add_right _
      _ = a.s1.toNat + byteSum (d :: ds) := Nat.add_assoc _ _ _

/-- One SSTEP adds the new S1 to S2, and each of the SSTEPs after it adds the new S1 again. -/
theorem foldl_stepReduced_s2_modEq (ds : List Byte) (a : Accum) :
    (ds.foldl Accum.stepReduced a).s2.toNat ≡ a.s2.toNat + ds.length * a.s1.toNat + weightedSum ds [MOD 65521] := by
  induction ds generalizing a with
  | nil => simp [weightedSum, Nat.ModEq]
  | cons d ds ih =>
    have hs1 : (a.s1.toNat + d.toNat) % 65521 ≡ a.s1.toNat + d.toNat [MOD 65521] := Nat.mod_modEq _ _
    calc (ds.foldl Accum.stepReduced (a.stepReduced d)).s2.toNat
      _ ≡ (a.s2.toNat + (a.s1.toNat + d.toNat) % 65521) % 65521 + ds.length * ((a.s1.toNat + d.toNat) % 65521) +
            weightedSum ds [MOD 65521] := by simpa using ih (a.stepReduced d)
      _ ≡ a.s2.toNat + (a.s1.toNat + d.toNat) + ds.length * (a.s1.toNat + d.toNat) + weightedSum ds [MOD 65521] :=
        (((Nat.mod_modEq _ _).trans (hs1.add_left _)).add (hs1.mul_left _)).add_right _
      _ = a.s2.toNat + (d :: ds).length * a.s1.toNat + weightedSum (d :: ds) := by
        simp only [List.length_cons, weightedSum]; ring

/-- From a reduced pair the recurrence stays reduced, so it is the remainder of its closed form. -/
theorem foldl_stepReduced_closedForm {a : Accum} (h : a.isReduced = true) (ds : List Byte) :
    (ds.foldl Accum.stepReduced a).s1.toNat = (a.s1.toNat + byteSum ds) % 65521 ∧
    (ds.foldl Accum.stepReduced a).s2.toNat = (a.s2.toNat + ds.length * a.s1.toNat + weightedSum ds) % 65521 := by
  obtain ⟨h1, h2⟩ := (Accum.isReduced_iff _).1 (foldl_stepReduced_isReduced h ds)
  exact ⟨(Nat.mod_eq_of_modEq (foldl_stepReduced_s1_modEq ds a).symm h1).symm,
    (Nat.mod_eq_of_modEq (foldl_stepReduced_s2_modEq ds a).symm h2).symm⟩

/-- The pair that SEED writes (`exec_seed`). -/
abbrev Accum.seed : Accum := { s1 := 1, s2 := 0 }

theorem Accum.seed_isReduced : Accum.seed.isReduced = true := by decide

theorem foldl_stepReduced_seed (ds : List Byte) :
    (ds.foldl Accum.stepReduced Accum.seed).s1.toNat = (1 + byteSum ds) % 65521 ∧
    (ds.foldl Accum.stepReduced Accum.seed).s2.toNat = (ds.length + weightedSum ds) % 65521 := by
  simpa using foldl_stepReduced_closedForm Accum.seed_isReduced ds

/-! ### The contract's sums (41_scalar.md R124, 44_sequencer.md R190) -/

/-- The exact pair that the contract counts in. -/
def Accum.sums (a : Accum) : Nat × Nat := (a.s1.toNat, a.s2.toNat)

theorem adlerStep_sums (a : Accum) (d : Byte) : adlerStep a.sums d = (a.stepReduced d).sums := by
  rw [Accum.sums, Accum.sums, Accum.stepReduced_s1, Accum.stepReduced_s2]; rfl

/-- The contract's loop is SSTEP's recurrence from the seed. -/
theorem adlerSums_eq_foldl_stepReduced (ds : List Byte) :
    adlerSums ds = (ds.foldl Accum.stepReduced Accum.seed).sums :=
  List.foldl_hom Accum.sums (init := Accum.seed) adlerStep_sums

theorem packSums_eq_packed {a : Accum} (h : a.isReduced = true) : packSums a.s1.toNat a.s2.toNat = a.packed := by
  rw [Accum.packed_eq_shiftLeft_or h]
  simp only [packSums, u32, BitVec.ofNat_toNat, BitVec.setWidth_eq]

/-- Adler32 is the word that PACK publishes of SSTEP's recurrence from the seed. -/
theorem adler32_eq_packed (ds : List Byte) : adler32 ds = (ds.foldl Accum.stepReduced Accum.seed).packed := by
  rw [adler32, adlerSums_eq_foldl_stepReduced]
  exact packSums_eq_packed (foldl_stepReduced_isReduced Accum.seed_isReduced ds)

theorem adlerSums_closedForm (ds : List Byte) :
    adlerSums ds = ((1 + byteSum ds) % 65521, (ds.length + weightedSum ds) % 65521) := by
  obtain ⟨h1, h2⟩ := foldl_stepReduced_seed ds
  rw [adlerSums_eq_foldl_stepReduced, Accum.sums, h1, h2]

end Sys2Proof.Machine
end

section
/-! PROOFS. The statements of 41_scalar.md. -/

namespace Sys2Proof.Machine

/-- Settles O6: SSTEP goes on with the byte that the port brings, or raises ReadFault at PTR. -/
theorem sstepFoldsOneByteReduced : Obligations.SstepFoldsOneByteReduced := by
  refine ⟨rfl, fun s a q ha hq h => ?_, fun s a q ha hq h => exec_byteReader_refused (.inl rfl) ha hq h⟩
  exact ⟨s.readValue q.ptr s.draws, s.drawsAfter q.ptr s.draws, State.readValue_settled, exec_sstep_answers ha hq h⟩

/-- Settles O21: in each case of `exec_byteReader_cases` the next state is written out. -/
theorem byteReadersFrame : Obligations.ByteReadersFrame := by
  intro i s t hi h
  obtain ⟨q, hq, ⟨acc, blk, k, d, hblk, hacc, rfl⟩ | ⟨r, hr, rfl⟩ | rfl⟩ := exec_byteReader_cases hi h
  · exact ⟨rfl, rfl, rfl, rfl, rfl, fun _ => rfl, rfl, rfl, rfl, rfl, rfl, rfl,
      .inr ⟨rfl, rfl, hblk, hacc, q, _, _, hq, rfl⟩⟩
  · exact ⟨rfl, rfl, rfl, rfl, rfl, fun _ => rfl, rfl, rfl, rfl, rfl, rfl, rfl, .inl ⟨r, rfl, rfl, hr⟩⟩
  · exact ⟨rfl, rfl, rfl, rfl, rfl, fun _ => rfl, rfl, rfl, rfl, rfl, rfl, rfl,
      .inr ⟨rfl, rfl, fun _ => rfl, fun _ => rfl, q, q.ptr, q.upc, hq, hq⟩⟩

/-- Settles O47: the closed form from any reduced pair, and from the seed, which is reduced. -/
theorem scalarClosedForm : Obligations.ScalarClosedForm := by
  refine ⟨fun a d => ⟨a.stepReduced_s1 d, ?_⟩, fun ds a h1 h2 => ?_, foldl_stepReduced_seed⟩
  · rw [Accum.stepReduced_s2, Accum.stepReduced_s1]
  · exact foldl_stepReduced_closedForm (a.isReduced_iff.2 ⟨h1, h2⟩) ds

/-- Settles O48: the sums are the closed form's, and the packed word's halves are those of a reduced pair. -/
theorem adler32ClosedForm : Obligations.Adler32ClosedForm := by
  intro ds
  obtain ⟨hhigh, hlow⟩ := Accum.packed_halves_le (foldl_stepReduced_isReduced Accum.seed_isReduced ds)
  refine ⟨by rw [adler32, adlerSums_closedForm, packSums], ?_, ?_⟩
  · rw [adler32_eq_packed]; exact Nat.lt_succ_of_le hhigh
  · rw [adler32_eq_packed]; exact Nat.lt_succ_of_le hlow

end Sys2Proof.Machine
end

section
/-! PROOFS. What the batched family's statements rest on: RSTEP at an answered byte, REDUCE, and the sums of a segment
of RSTEPs with their bound. -/

namespace Sys2Proof.Machine

/-! ### One micro-op (42_batched.md R140, R142) -/

theorem exec_rstep_answers {s : State} {a : Accum} {q : Sequencer} (ha : s.eng.acc = some a) (hq : s.eng.seq = some q)
    (h : s.platform.answer q.ptr = .answers) :
    exec .rstep s = .next
      (s.afterByte (s.drawsAfter q.ptr s.draws) (a.stepRaw (s.readValue q.ptr s.draws)) q) := by
  rw [exec, execRstep, withAccum_some _ ha, withSequencer_some _ hq, withReply_memRead _ h]; rfl

theorem exec_reduce {s : State} {a : Accum} (ha : s.eng.acc = some a) :
    exec .reduce s = .next (s.complete { s.eng with acc := some a.reduced }) := by
  rw [exec, execReduce, withAccum_some _ ha]

theorem Accum.reduced_of_isReduced {a : Accum} (h : a.isReduced = true) : a.reduced = a := by
  obtain ⟨h1, h2⟩ := a.isReduced_iff.1 h
  exact Accum.eq_of_toNat (a.reduced_s1.trans (Nat.mod_eq_of_lt h1)) (a.reduced_s2.trans (Nat.mod_eq_of_lt h2))

/-! ### The bound of a segment (42_batched.md R145, 90_conflicts.md C1) -/

/-- The largest S2 that a segment of m RSTEPs reaches from a reduced pair. -/
def segmentBound (m : Nat) : Nat := (m + 1) * 65520 + 255 * (m * (m + 1)) / 2

theorem segmentBound_mono {m n : Nat} (h : m ≤ n) : segmentBound m ≤ segmentBound n := by
  unfold segmentBound
  gcongr

/-- The bound fits at 5552 and no longer at 5553, and it grows with the length. -/
theorem segmentBound_fits_iff (m : Nat) : segmentBound m ≤ 2 ^ 32 - 1 ↔ m ≤ 5552 := by
  have hfits : segmentBound 5552 ≤ 2 ^ 32 - 1 := by decide
  have hwraps : 2 ^ 32 - 1 < segmentBound 5553 := by decide
  constructor
  · intro h
    by_contra hm
    have := segmentBound_mono (show 5553 ≤ m by omega)
    omega
  · exact fun h => (segmentBound_mono h).trans hfits

theorem weightedSum_le (ds : List Byte) : weightedSum ds ≤ 255 * (ds.length * (ds.length + 1)) / 2 := by
  have := two_weightedSum_le ds
  omega

theorem segment_s1_le {a : Accum} (h1 : a.s1.toNat ≤ 65520) (ds : List Byte) :
    a.s1.toNat + byteSum ds ≤ 65520 + 255 * ds.length :=
  Nat.add_le_add h1 (byteSum_le ds)

theorem segment_s2_le {a : Accum} (h1 : a.s1.toNat ≤ 65520) (h2 : a.s2.toNat ≤ 65520) (ds : List Byte) :
    a.s2.toNat + ds.length * a.s1.toNat + weightedSum ds ≤ segmentBound ds.length := by
  have hmul : ds.length * a.s1.toNat ≤ ds.length * 65520 := Nat.mul_le_mul_left _ h1
  have := weightedSum_le ds
  unfold segmentBound
  omega

/-! ### The sums of a segment (42_batched.md R145) -/

/-- What the last RSTEP reaches bounds what each RSTEP reaches, so sums that fit at the end never wrap on the way. -/
theorem foldl_stepRaw_of_fits (ds : List Byte) (a : Accum) (h1 : a.s1.toNat + byteSum ds < 2 ^ 32)
    (h2 : a.s2.toNat + ds.length * a.s1.toNat + weightedSum ds < 2 ^ 32) :
    (ds.foldl Accum.stepRaw a).s1.toNat = a.s1.toNat + byteSum ds ∧
    (ds.foldl Accum.stepRaw a).s2.toNat = a.s2.toNat + ds.length * a.s1.toNat + weightedSum ds := by
  induction ds generalizing a with
  | nil => simp [byteSum, weightedSum]
  | cons d ds ih =>
    have hsum1 : a.s1.toNat + byteSum (d :: ds) = a.s1.toNat + d.toNat + byteSum ds := (Nat.add_assoc _ _ _).symm
    have hsum2 : a.s2.toNat + (d :: ds).length * a.s1.toNat + weightedSum (d :: ds) =
        a.s2.toNat + (a.s1.toNat + d.toNat) + ds.length * (a.s1.toNat + d.toNat) + weightedSum ds := by
      simp only [List.length_cons, weightedSum]; ring
    rw [hsum1] at h1 ⊢
    rw [hsum2] at h2 ⊢
    have hs1 : (a.stepRaw d).s1.toNat = a.s1.toNat + d.toNat := by
      rw [Accum.stepRaw_s1, Nat.mod_eq_of_lt (by omega)]
    have hs2 : (a.stepRaw d).s2.toNat = a.s2.toNat + (a.s1.toNat + d.toNat) := by
      rw [Accum.stepRaw_s2, ← Accum.stepRaw_s1, hs1, Nat.mod_eq_of_lt (by omega)]
    simpa only [List.foldl_cons, hs1, hs2] using ih (a.stepRaw d) (by rwa [hs1]) (by rwa [hs2, hs1])

/-- In a segment of at most NMAX bytes entered reduced no RSTEP wraps. -/
theorem foldl_stepRaw_closedForm {ds : List Byte} {a : Accum} (hm : ds.length ≤ 5552) (h1 : a.s1.toNat ≤ 65520)
    (h2 : a.s2.toNat ≤ 65520) :
    (ds.foldl Accum.stepRaw a).s1.toNat = a.s1.toNat + byteSum ds ∧
    (ds.foldl Accum.stepRaw a).s2.toNat = a.s2.toNat + ds.length * a.s1.toNat + weightedSum ds := by
  have hs1 := segment_s1_le h1 ds
  have hs2 := (segment_s2_le h1 h2 ds).trans ((segmentBound_fits_iff _).2 hm)
  exact foldl_stepRaw_of_fits ds a (by omega) (by omega)

/-! ### The segment that attains the bound (90_conflicts.md C1) -/

theorem byteSum_replicate (m : Nat) (d : Byte) : byteSum (List.replicate m d) = d.toNat * m := by
  induction m with
  | zero => rfl
  | succ m ih => rw [List.replicate_succ, byteSum, ih]; ring

theorem two_weightedSum_replicate (m : Nat) (d : Byte) :
    2 * weightedSum (List.replicate m d) = d.toNat * (m * (m + 1)) := by
  induction m with
  | zero => rfl
  | succ m ih => rw [List.replicate_succ, weightedSum, Nat.mul_add, ih, List.length_replicate]; ring

/-- The largest bytes from the largest reduced pair. -/
theorem foldl_stepRaw_attains {m : Nat} (hm : m ≤ 5552) :
    ((List.replicate m (0xFF : Byte)).foldl Accum.stepRaw { s1 := 65520, s2 := 65520 }).s1.toNat = 65520 + 255 * m ∧
    ((List.replicate m (0xFF : Byte)).foldl Accum.stepRaw { s1 := 65520, s2 := 65520 }).s2.toNat = segmentBound m := by
  have hlen : (List.replicate m (0xFF : Byte)).length = m := List.length_replicate
  have hbyte : (0xFF : Byte).toNat = 255 := rfl
  have hentry : (65520 : Word).toNat = 65520 := rfl
  have hweighted := two_weightedSum_replicate m 0xFF
  obtain ⟨hs1, hs2⟩ := foldl_stepRaw_closedForm (ds := List.replicate m (0xFF : Byte))
    (a := { s1 := 65520, s2 := 65520 }) (by omega) hentry.le hentry.le
  rw [hbyte] at hweighted
  rw [hs1, hs2, byteSum_replicate, hlen, hbyte, hentry, segmentBound]
  omega

end Sys2Proof.Machine
end

section
/-! PROOFS. The statements of 42_batched.md. -/

namespace Sys2Proof.Machine

/-- Settles O7: RSTEP goes on with the byte that the port brings, or raises ReadFault at PTR. -/
theorem rstepFoldsOneByteUnreduced : Obligations.RstepFoldsOneByteUnreduced := by
  refine ⟨rfl, fun s a q ha hq h => ?_, fun s a q ha hq h => exec_byteReader_refused (.inr rfl) ha hq h⟩
  exact ⟨s.readValue q.ptr s.draws, s.drawsAfter q.ptr s.draws, State.readValue_settled, exec_rstep_answers ha hq h⟩

/-- Settles O8: REDUCE completes with `Accum.reduced`, which keeps a reduced pair. -/
theorem reduceReducesBothSums : Obligations.ReduceReducesBothSums :=
  ⟨rfl, fun _ a ha => ⟨a.reduced, a.reduced_s1, a.reduced_s2,
    fun h1 h2 => Accum.reduced_of_isReduced (a.isReduced_iff.2 ⟨h1, h2⟩), exec_reduce ha⟩⟩

/-- Settles O49: the sums are exact because their bound fits (`segmentBound_fits_iff`), and all-0xFF bytes attain it. -/
theorem batchedSegmentNeverWraps : Obligations.BatchedSegmentNeverWraps := by
  refine ⟨fun ds a hm h1 h2 => ?_, fun m hm => foldl_stepRaw_attains hm, segmentBound_fits_iff⟩
  obtain ⟨hs1, hs2⟩ := foldl_stepRaw_closedForm hm h1 h2
  exact ⟨hs1, hs2, segment_s1_le h1 ds, segment_s2_le h1 h2 ds⟩

/-- Settles O50: RSTEPs reach the exact sums, and SSTEPs reach their remainders (`foldl_stepReduced_closedForm`). -/
theorem batchedSegmentEqualsScalar : Obligations.BatchedSegmentEqualsScalar := by
  intro ds a hm h1 h2
  obtain ⟨hraw1, hraw2⟩ := foldl_stepRaw_closedForm hm (Nat.le_of_lt_succ h1) (Nat.le_of_lt_succ h2)
  obtain ⟨hred1, hred2⟩ := foldl_stepReduced_closedForm (a.isReduced_iff.2 ⟨h1, h2⟩) ds
  exact Accum.eq_of_toNat (by rw [Accum.reduced_s1, hraw1, hred1]) (by rw [Accum.reduced_s2, hraw2, hred2])

end Sys2Proof.Machine
end

section
/-! PROOFS. What the vector family's statements rest on: VBEGIN, VCHUNK and VRECON where they complete, the positional
sum of the lanes, and what the super-block registers hold after a list of chunks. -/

namespace Sys2Proof.Machine

/-! ### One micro-op (43_vector.md R161, R163, R165) -/

theorem exec_vbegin_reduced {s : State} {a : Accum} (hv : s.eng.build.hasVector = true) (ha : s.eng.acc = some a)
    (hr : a.isReduced = true) :
    exec .vbegin s = .next (s.complete { s.eng with blk := some (Block.opened s.eng.build.w a.s1) }) := by
  rw [exec, execVbegin, withVectorTier_true _ hv, withAccum_some _ ha, asserting_true _ hr]

theorem exec_vchunk_got {s : State} {v : Block} {q : Sequencer} {bytes : List Byte} {d : Nat}
    (hv : s.eng.build.hasVector = true) (hb : s.eng.blk = some v) (hq : s.eng.seq = some q)
    (hr : s.memReads s.eng.build.w q.ptr s.draws = .got bytes d) (hn : v.blen.toNat + s.eng.build.w ≤ 5552) :
    exec .vchunk s = .next (s.afterChunk d (v.addChunk s.eng.build.w bytes) q) := by
  rw [exec, execVchunk, withVectorTier_true _ hv, withBlock_some _ hb, withSequencer_some _ hq, hr, withReply,
    asserting_true _ (decide_eq_true hn)]
  rfl

/-- VCHUNK raises ReadFault at the lowest address of its chunk that does not answer, if that one is refused. -/
theorem exec_vchunk_refused {s : State} {v : Block} {q : Sequencer} {k : Nat} (hv : s.eng.build.hasVector = true)
    (hb : s.eng.blk = some v) (hq : s.eng.seq = some q) (hk : k < s.eng.build.w)
    (hbefore : ∀ j, j < k → s.platform.answer (byteAddr q.ptr j) = .answers)
    (h : s.platform.answer (byteAddr q.ptr k) = .refused) :
    exec .vchunk s = .next (s.raise (.readFault (byteAddr q.ptr k))) := by
  obtain ⟨hstop, -, -⟩ := s.memReads_stops s.eng.build.w q.ptr s.draws k hk hbefore
  rw [exec, execVchunk, withVectorTier_true _ hv, withBlock_some _ hb, withSequencer_some _ hq, hstop h, withReply]

theorem exec_vrecon_reconciled {s : State} {a : Accum} {v : Block} (hv : s.eng.build.hasVector = true)
    (ha : s.eng.acc = some a) (hb : s.eng.blk = some v) (hm : v.mayReconcile a.s2 = true) :
    exec .vrecon s = .next (s.complete { s.eng with acc := some (v.reconciled s.eng.build.w a.s2) }) := by
  rw [exec, execVrecon, withVectorTier_true _ hv, withAccum_some _ ha, withBlock_some _ hb, asserting_true _ hm]

/-! ### The positional sum of the lanes (43_vector.md R164, R165) -/

theorem laneWeights_succ (w : Nat) : laneWeights (w + 1) = (w + 1) :: laneWeights w := by
  simp [laneWeights, List.range_succ_eq_map, Function.comp_def]

/-- WS of a lane file, as `Block.weighted` takes it of the super-block's. -/
def weightedLanes (w : Nat) (lanes : List Word) : Nat :=
  (List.zipWith (fun c (l : Word) => c * l.toNat) (laneWeights w) lanes).sum

theorem Block.weighted_eq (v : Block) (w : Nat) : v.weighted w = weightedLanes w v.lanes := rfl

@[simp] theorem weightedLanes_nil (w : Nat) : weightedLanes w [] = 0 := by simp [weightedLanes]

@[simp] theorem weightedLanes_cons (w : Nat) (l : Word) (ls : List Word) :
    weightedLanes (w + 1) (l :: ls) = (w + 1) * l.toNat + weightedLanes w ls := by
  simp [weightedLanes, laneWeights_succ]

theorem weightedLanes_replicate_zero (w : Nat) : weightedLanes w (List.replicate w 0) = 0 := by
  induction w with
  | zero => rfl
  | succ w ih => rw [List.replicate_succ, weightedLanes_cons, ih]; rfl

/-- WS by the lanes' numbers, as R165 writes it. -/
theorem weightedLanes_eq_sum_range {w : Nat} {lanes : List Word} (h : lanes.length = w) :
    weightedLanes w lanes = ((List.range w).map fun k => (w - k) * (lanes.getD k 0).toNat).sum := by
  subst h
  unfold weightedLanes laneWeights
  congr 1
  refine List.ext_getElem (by simp) fun k h1 h2 => ?_
  have hk : k < lanes.length := by simpa using h2
  simp [List.getElem?_eq_getElem hk]

/-- The lanes after one more chunk: lane k takes byte k (`Block.addChunk`). -/
abbrev addBytes (lanes : List Word) (bytes : List Byte) : List Word :=
  List.zipWith (fun l c => u32 (l.toNat + c.toNat)) lanes bytes

/-- A lane that takes a byte without a wrap holds the exact sum. -/
theorem lane_add_toNat {l : Word} (h : l.toNat + 255 < 2 ^ 32) (c : Byte) :
    (u32 (l.toNat + c.toNat)).toNat = l.toNat + c.toNat := by
  have := c.isLt
  exact u32_toNat (by omega)

/-- A chunk adds to WS its own positional sum, while no lane wraps. -/
theorem weightedLanes_addBytes {lanes : List Word} {bytes : List Byte} (hlen : lanes.length = bytes.length)
    (hfit : ∀ l ∈ lanes, l.toNat + 255 < 2 ^ 32) :
    weightedLanes bytes.length (addBytes lanes bytes) = weightedLanes bytes.length lanes + weightedSum bytes := by
  induction bytes generalizing lanes with
  | nil => rw [List.eq_nil_of_length_eq_zero hlen]; rfl
  | cons c bytes ih =>
    obtain _ | ⟨l, lanes⟩ := lanes
    · cases hlen
    · have htail := ih (Nat.succ.inj hlen) fun x hx => hfit x (List.mem_cons_of_mem _ hx)
      have hhead := lane_add_toNat (hfit l List.mem_cons_self) c
      rw [addBytes, List.zipWith_cons_cons, List.length_cons, weightedLanes_cons, weightedLanes_cons, htail, hhead,
        weightedSum]
      ring

/-- A byte is at most 255, so a chunk raises the bound of the lanes by 255. -/
theorem addBytes_le {lanes : List Word} {m : Nat} (hm : m + 255 < 2 ^ 32) (hle : ∀ l ∈ lanes, l.toNat ≤ m)
    (bytes : List Byte) : ∀ l ∈ addBytes lanes bytes, l.toNat ≤ m + 255 := by
  induction lanes generalizing bytes with
  | nil => intro l hl; simp at hl
  | cons x lanes ih =>
    obtain _ | ⟨c, bytes⟩ := bytes
    · intro l hl; simp at hl
    · have hx : x.toNat ≤ m := hle x List.mem_cons_self
      have hc := c.isLt
      intro l hl
      obtain rfl | hl := List.mem_cons.1 hl
      · rw [lane_add_toNat (by omega)]; omega
      · exact ih (fun y hy => hle y (List.mem_cons_of_mem _ hy)) bytes l hl

/-! ### The super-block over a list of chunks (43_vector.md R173, R175) -/

/-- What the super-block registers hold, opened at `s1`, after the `chunks` of `w` bytes. `positional` is the idea of the
vector tier: WS counts each byte by its place in its own chunk, and W·VP adds W for every chunk that came after it. -/
structure Block.Accumulates (w : Nat) (s1 : Word) (chunks : List (List Byte)) (v : Block) : Prop where
  s1e_eq : v.s1e = s1
  bs1_eq : v.bs1.toNat = byteSum chunks.flatten
  blen_eq : v.blen.toNat = chunks.length * w
  two_vp_le : 2 * v.vp.toNat ≤ 255 * w * (chunks.length * (chunks.length - 1))
  lanes_length : v.lanes.length = w
  lanes_le : ∀ l ∈ v.lanes, l.toNat ≤ 255 * chunks.length
  positional : w * v.vp.toNat + v.weighted w = weightedSum chunks.flatten

theorem Block.opened_accumulates (w : Nat) (s1 : Word) : (Block.opened w s1).Accumulates w s1 [] where
  s1e_eq := rfl
  bs1_eq := rfl
  blen_eq := by simp [Block.opened]
  two_vp_le := Nat.zero_le _
  lanes_length := List.length_replicate
  lanes_le l hl := by rw [List.eq_of_mem_replicate hl]; rfl
  positional := by rw [Block.weighted_eq, Block.opened, weightedLanes_replicate_zero]; rfl

theorem length_flatten_of_chunks {w : Nat} {chunks : List (List Byte)} (h : ∀ c ∈ chunks, c.length = w) :
    chunks.flatten.length = chunks.length * w := by
  rw [List.length_flatten, List.map_congr_left h, List.map_const', List.sum_replicate, smul_eq_mul]

theorem byteSum_chunks_le {w : Nat} {chunks : List (List Byte)} (h : ∀ c ∈ chunks, c.length = w) :
    byteSum chunks.flatten ≤ 255 * (chunks.length * w) :=
  length_flatten_of_chunks h ▸ byteSum_le _

/-- R175's bound of VP is kept by one more chunk, the (C + 1)-th, which adds BS1 of the C before it. -/
theorem two_vp_succ_le {w C vp bs1 : Nat} (hvp : 2 * vp ≤ 255 * w * (C * (C - 1))) (hbs1 : bs1 ≤ 255 * (C * w)) :
    2 * (vp + bs1) ≤ 255 * w * ((C + 1) * C) := by
  have hpairs : C * (C - 1) + 2 * C = (C + 1) * C := by
    cases C with
    | zero => rfl
    | succ C => simp only [Nat.add_sub_cancel]; ring
  calc 2 * (vp + bs1)
    _ ≤ 255 * w * (C * (C - 1)) + 2 * (255 * (C * w)) := by omega
    _ = 255 * w * (C * (C - 1) + 2 * C) := by ring
    _ = 255 * w * ((C + 1) * C) := by rw [hpairs]

/-- VP of a super-block of at most NMAX bytes fits a register. -/
theorem vp_fits {w C vp : Nat} (hvp : 2 * vp ≤ 255 * w * ((C + 1) * C)) (hw : 1 ≤ w) (hC : (C + 1) * w ≤ 5552) :
    vp < 2 ^ 32 := by
  have hC' : C ≤ 5552 := (Nat.le_succ C).trans ((Nat.le_mul_of_pos_right _ hw).trans hC)
  have : 255 * w * ((C + 1) * C) ≤ 255 * (5552 * 5552) :=
    calc 255 * w * ((C + 1) * C)
      _ = 255 * ((C + 1) * w * C) := by ring
      _ ≤ 255 * (5552 * 5552) := Nat.mul_le_mul_left _ (Nat.mul_le_mul hC hC')
  omega

/-- One more chunk, while the super-block has at most NMAX bytes: no register and no lane wraps. -/
theorem Block.Accumulates.addChunk {w : Nat} {s1 : Word} {chunks : List (List Byte)} {v : Block} {c : List Byte}
    (h : v.Accumulates w s1 chunks) (hw : 1 ≤ w) (hall : ∀ c ∈ chunks, c.length = w) (hc : c.length = w)
    (hn : (chunks.length + 1) * w ≤ 5552) : (v.addChunk w c).Accumulates w s1 (chunks ++ [c]) := by
  have hlength : (chunks ++ [c]).length = chunks.length + 1 := by simp
  have hflatten : (chunks ++ [c]).flatten = chunks.flatten ++ c := by simp
  have hbytes : (chunks.length + 1) * w = chunks.length * w + w := Nat.succ_mul _ _
  have hmany : chunks.length + 1 ≤ 5552 := (Nat.le_mul_of_pos_right _ hw).trans hn
  have hsum := byteSum_chunks_le hall
  have hchunk := byteSum_le c
  have htwo : 2 * (v.vp.toNat + v.bs1.toNat) ≤ 255 * w * ((chunks.length + 1) * chunks.length) :=
    two_vp_succ_le h.two_vp_le (h.bs1_eq ▸ hsum)
  have hvp : (v.addChunk w c).vp.toNat = v.vp.toNat + v.bs1.toNat := u32_toNat (vp_fits htwo hw hn)
  have hweighted : (v.addChunk w c).weighted w = v.weighted w + weightedSum c := by
    have := weightedLanes_addBytes (h.lanes_length.trans hc.symm) fun l hl => by have := h.lanes_le l hl; omega
    rwa [hc] at this
  exact {
    s1e_eq := h.s1e_eq
    bs1_eq := by
      show (u32 (v.bs1.toNat + chunkSum c)).toNat = _
      rw [chunkSum_eq_byteSum, h.bs1_eq, u32_toNat (by omega), hflatten, byteSum_append]
    blen_eq := by
      show (u32 (v.blen.toNat + w)).toNat = _
      rw [h.blen_eq, u32_toNat (by omega), hlength, hbytes]
    two_vp_le := by rw [hvp, hlength]; exact htwo
    lanes_length := by
      show (addBytes v.lanes c).length = w
      rw [List.length_zipWith, h.lanes_length, hc, Nat.min_self]
    lanes_le := by rw [hlength]; exact addBytes_le (by omega) h.lanes_le c
    positional := by
      rw [hvp, hweighted, h.bs1_eq, hflatten, weightedSum_append, hc, ← h.positional]
      ring }

/-- The super-block registers after VBEGIN and one VCHUNK for each of `chunks`. -/
abbrev superBlock (w : Nat) (s1 : Word) (chunks : List (List Byte)) : Block :=
  chunks.foldl (fun v c => v.addChunk w c) (Block.opened w s1)

theorem superBlock_accumulates {w : Nat} {chunks : List (List Byte)} (s1 : Word) (hw : 1 ≤ w)
    (hall : ∀ c ∈ chunks, c.length = w) (hn : chunks.length * w ≤ 5552) :
    (superBlock w s1 chunks).Accumulates w s1 chunks := by
  induction chunks using List.reverseRecOn with
  | nil => exact Block.opened_accumulates w s1
  | append_singleton chunks c ih =>
    rw [List.length_append, List.length_singleton] at hn
    have hbefore : ∀ c ∈ chunks, c.length = w := fun x hx => hall x (List.mem_append_left _ hx)
    have hv := ih hbefore (le_trans (Nat.mul_le_mul_right w (Nat.le_succ _)) hn)
    rw [superBlock, List.foldl_concat]
    exact hv.addChunk hw hbefore (hall c (by simp)) hn

/-- T of VRECON is the exact S2 of the recurrence over the super-block's bytes. -/
theorem Block.Accumulates.total_eq {w : Nat} {s1 : Word} {chunks : List (List Byte)} {v : Block}
    (h : v.Accumulates w s1 chunks) (s2 : Word) :
    v.total w s2 = s2.toNat + chunks.length * w * s1.toNat + weightedSum chunks.flatten := by
  rw [Block.total, h.blen_eq, h.s1e_eq, Nat.add_assoc _ (w * _), h.positional]

/-- VRECON gives the remainders of the closed forms, which are what SSTEPs over the bytes give. -/
theorem Block.Accumulates.reconciled_eq {w : Nat} {a : Accum} {chunks : List (List Byte)} {v : Block}
    (h : v.Accumulates w a.s1 chunks) (hall : ∀ c ∈ chunks, c.length = w) (hr : a.isReduced = true) :
    v.reconciled w a.s2 = chunks.flatten.foldl Accum.stepReduced a := by
  obtain ⟨hs1, hs2⟩ := foldl_stepReduced_closedForm hr chunks.flatten
  rw [length_flatten_of_chunks hall] at hs2
  refine Accum.eq_of_toNat ?_ ?_
  · rw [Block.reconciled_s1, h.s1e_eq, h.bs1_eq, hs1]
  · rw [Block.reconciled_s2, h.total_eq, hs2]

end Sys2Proof.Machine
end

section
/-! PROOFS. The statements of 43_vector.md. -/

namespace Sys2Proof.Machine

/-- Settles O9: on a reduced pair VBEGIN completes with `Block.opened`. -/
theorem vbeginOpensASuperBlock : Obligations.VbeginOpensASuperBlock :=
  ⟨rfl, fun _ a hv ha h1 h2 => exec_vbegin_reduced hv ha (a.isReduced_iff.2 ⟨h1, h2⟩)⟩

/-- Settles O10: the W reads bring a chunk (`State.memReads_got`) that `Block.addChunk` takes, or the lowest refused
address is raised. -/
theorem vchunkAccumulatesOneChunk : Obligations.VchunkAccumulatesOneChunk := by
  refine ⟨rfl, fun s v q hv hb hq h hn => ?_, fun s v q k hv hb hq hk hbefore h =>
    exec_vchunk_refused hv hb hq hk hbefore h⟩
  obtain ⟨bytes, d, hr, hlength, hbyte, hdraws⟩ := s.memReads_got s.eng.build.w q.ptr s.draws h
  exact ⟨bytes, d, hlength, hbyte, hdraws, exec_vchunk_got hv hb hq hr hn⟩

/-- Settles O11: VRECON completes with `Block.reconciled`, and WS is R165's sum over the lane numbers. -/
theorem vreconReconcilesTheSuperBlock : Obligations.VreconReconcilesTheSuperBlock := by
  refine ⟨rfl, fun s a v hv ha hb hblen hs1e hs2 hlanes => ?_⟩
  refine ⟨v.reconciled s.eng.build.w a.s2, v.reconciled_s1 _ _, ?_,
    exec_vrecon_reconciled hv ha hb ((v.mayReconcile_iff a.s2).2 ⟨hblen, hs1e, hs2⟩)⟩
  rw [Block.reconciled_s2, Block.total, Block.weighted_eq, weightedLanes_eq_sum_range hlanes]

/-- Settles O51: VRECON gives the SSTEPs' pair (`Block.Accumulates.reconciled_eq`), so leftover SSTEPs go on from it. -/
theorem vectorSuperBlockEqualsScalar : Obligations.VectorSuperBlockEqualsScalar := by
  intro w chunks rest a hw hall hn h1 h2 r
  have hv := superBlock_accumulates a.s1 hw hall hn
  have heq : r = chunks.flatten.foldl Accum.stepReduced a := hv.reconciled_eq hall (a.isReduced_iff.2 ⟨h1, h2⟩)
  refine ⟨?_, ?_, heq, ?_⟩
  · rw [Block.reconciled_s1, hv.s1e_eq, hv.bs1_eq]
  · rw [Block.reconciled_s2, hv.total_eq]
  · rw [heq, List.foldl_append]

/-- Settles O52: the registers hold exact sums (`superBlock_accumulates`), and T is the S2 of a segment of RSTEPs, whose
bound fits (`segmentBound_fits_iff`). -/
theorem vectorDatapathNeverWraps : Obligations.VectorDatapathNeverWraps := by
  intro w chunks a hw _ hall hn h1 h2 v
  have hv : v.Accumulates w a.s1 chunks := superBlock_accumulates a.s1 hw hall hn
  have hlength := length_flatten_of_chunks hall
  have hmany : chunks.length ≤ 5552 := (Nat.le_mul_of_pos_right _ hw).trans hn
  have hbound : v.total w a.s2 ≤ segmentBound (chunks.length * w) := by
    rw [hv.total_eq, ← hlength]; exact segment_s2_le h1 h2 _
  have hvp : w * v.vp.toNat ≤ v.total w a.s2 := by rw [Block.total]; omega
  obtain ⟨-, hraw⟩ := foldl_stepRaw_closedForm (hlength.trans_le hn) h1 h2
  rw [hlength] at hraw
  exact ⟨hv.lanes_le, by omega, hv.bs1_eq, hv.bs1_eq ▸ byteSum_chunks_le hall, by omega, hv.two_vp_le, hvp, hv.blen_eq,
    hv.total_eq _, hbound, hbound.trans (segmentBound_mono hn), (hv.total_eq _).trans hraw.symm⟩

end Sys2Proof.Machine
end

section
/-! PROOFS. What the sequencer family's statements rest on, first part: what stands between SEED and PACK of a schedule,
the bytes it consumes, and that it can run from what SEED leaves known. -/

namespace Sys2Proof.Machine

/-! ### Between SEED and PACK (44_sequencer.md R200, R203, R204) -/

/-- One super-block of `c` chunks (43_vector.md R170). -/
def superBlockOps (c : Nat) : List Instr := .vbegin :: (List.replicate c .vchunk ++ [.vrecon])

theorem eq_of_mem_batchedSegment {i : Instr} {m : Nat} (h : i ∈ batchedSegment m) : i = .rstep ∨ i = .reduce :=
  (List.mem_append.1 h).imp List.eq_of_mem_replicate List.mem_singleton.1

theorem eq_of_mem_superBlockOps {i : Instr} {c : Nat} (h : i ∈ superBlockOps c) :
    i = .vbegin ∨ i = .vchunk ∨ i = .vrecon :=
  (List.mem_cons.1 h).imp_right fun h => (List.mem_append.1 h).imp List.eq_of_mem_replicate List.mem_singleton.1

theorem vectorSegment_eq (w m : Nat) :
    vectorSegment w m =
      if w ≤ m then superBlockOps (m / w) ++ List.replicate (m % w) .sstep else List.replicate m .sstep := by
  simp [vectorSegment, superBlockOps]

/-- The micro-ops between SEED and PACK. -/
def bodyOps (b : Build) : Tier → Nat → List Instr
  | .scalar, n => List.replicate n .sstep
  | .batched, n => if n < 16 then List.replicate n .sstep else (segments n).flatMap batchedSegment
  | .vector, n => if n < b.w then List.replicate n .sstep else (segments n).flatMap (vectorSegment b.w)

theorem microOps_eq (b : Build) (t : Tier) (n : Nat) : microOps b t n = .seed :: (bodyOps b t n ++ [.pack]) := by
  cases t with
  | scalar => rfl
  | batched => rw [microOps_batched, bodyOps]; split <;> rfl
  | vector => rw [microOps_vector, bodyOps]; split <;> rfl

theorem schedule_eq (b : Build) (t : Tier) (n : Nat) :
    schedule b t n = encode .seed :: ((bodyOps b t n).map encode ++ [encode .pack]) := by
  rw [schedule, microOps_eq, List.map_cons, List.map_append, List.map_singleton]

/-- What holds of SSTEPs, of a batched segment and of a super-block, together with the bytes each takes, and passes on
to the one after the other, holds of all that a schedule has between SEED and PACK. -/
theorem bodyOps_induction {b : Build} {t : Tier} {P : List Instr → Nat → Prop}
    (append : ∀ {xs ys : List Instr} {m k : Nat}, P xs m → P ys k → P (xs ++ ys) (m + k))
    (ssteps : ∀ m, P (List.replicate m .sstep) m)
    (batched : t = .batched → ∀ m, m ≤ 5552 → P (batchedSegment m) m)
    (superBlock : t = .vector → ∀ c, c * b.w ≤ 5552 → P (superBlockOps c) (c * b.w)) (n : Nat) :
    P (bodyOps b t n) n := by
  have flatten (f : Nat → List Instr) (ms : List Nat) (hf : ∀ m ∈ ms, P (f m) m) : P (ms.flatMap f) ms.sum := by
    induction ms with
    | nil => exact ssteps 0
    | cons m ms ih => exact append (hf m List.mem_cons_self) (ih fun k hk => hf k (List.mem_cons_of_mem _ hk))
  have segmented (f : Nat → List Instr) (hf : ∀ m, m ≤ 5552 → P (f m) m) : P ((segments n).flatMap f) n := by
    have hall := flatten f (segments n) fun m hm => hf m (segments_range n m hm).2
    rwa [segments_sum] at hall
  cases t with
  | scalar => exact ssteps n
  | batched =>
    rw [bodyOps]
    split
    · exact ssteps n
    · exact segmented _ (batched rfl)
  | vector =>
    rw [bodyOps]
    split
    · exact ssteps n
    · refine segmented _ fun m hm => ?_
      have hdiv : m / b.w * b.w + m % b.w = m := Nat.div_add_mod' m b.w
      rw [vectorSegment_eq]
      split
      · have hsuper := append (superBlock rfl (m / b.w) (by omega)) (ssteps (m % b.w))
        rwa [hdiv] at hsuper
      · exact ssteps m

/-- Between SEED and PACK stand micro-ops other than the two. -/
theorem bodyOps_inner (b : Build) (t : Tier) (n : Nat) :
    ∀ i ∈ bodyOps b t n, i.isCommand = false ∧ i ≠ .seed ∧ i ≠ .pack := by
  refine bodyOps_induction (P := fun ops _ => ∀ i ∈ ops, i.isCommand = false ∧ i ≠ .seed ∧ i ≠ .pack)
    ?append ?ssteps ?batched ?superBlock n
  case append =>
    exact fun hx hy i hi => (List.mem_append.1 hi).elim (hx i) (hy i)
  case ssteps =>
    intro m i hi
    obtain rfl := List.eq_of_mem_replicate hi
    decide
  case batched =>
    intro _ m _ i hi
    obtain rfl | rfl := eq_of_mem_batchedSegment hi <;> decide
  case superBlock =>
    intro _ c _ i hi
    obtain rfl | rfl | rfl := eq_of_mem_superBlockOps hi <;> decide

/-- Only the vector tier issues vector micro-ops. -/
theorem bodyOps_not_isVector {t : Tier} (ht : t ≠ .vector) (b : Build) (n : Nat) :
    ∀ i ∈ bodyOps b t n, i.isVector = false := by
  refine bodyOps_induction (P := fun ops _ => ∀ i ∈ ops, i.isVector = false) ?append ?ssteps ?batched
    (fun h => absurd h ht) n
  case append =>
    exact fun hx hy i hi => (List.mem_append.1 hi).elim (hx i) (hy i)
  case ssteps =>
    intro m i hi
    obtain rfl := List.eq_of_mem_replicate hi
    rfl
  case batched =>
    intro _ m _ i hi
    obtain rfl | rfl := eq_of_mem_batchedSegment hi <;> rfl

/-! ### Lengths (44_sequencer.md R205) -/

theorem batchedSegments_length (ms : List Nat) : (ms.flatMap batchedSegment).length = ms.sum + ms.length := by
  induction ms with
  | nil => rfl
  | cons m ms ih =>
    simp only [List.flatMap_cons, List.length_append, ih, batchedSegment, List.length_replicate, List.length_cons,
      List.length_nil, List.sum_cons]
    omega

theorem vectorSegment_length (w m : Nat) : (vectorSegment w m).length = vectorSegmentLength w m := by
  rw [vectorSegment_eq, vectorSegmentLength]
  split
  · simp [superBlockOps]; omega
  · simp

theorem bodyOps_batched_length {n : Nat} (b : Build) (h : 16 ≤ n) :
    (bodyOps b .batched n).length = n + (n + 5551) / 5552 := by
  rw [bodyOps, if_neg (by omega), batchedSegments_length, segments_sum, segments_length]

theorem bodyOps_vector_length {b : Build} {n : Nat} (h : b.w ≤ n) :
    (bodyOps b .vector n).length = ((segments n).map (vectorSegmentLength b.w)).sum := by
  rw [bodyOps, if_neg (by omega), List.length_flatMap]
  exact congrArg List.sum (List.map_congr_left fun m _ => vectorSegment_length b.w m)

theorem schedule_length (b : Build) (t : Tier) (n : Nat) : (schedule b t n).length = (bodyOps b t n).length + 2 := by
  simp [schedule_eq]

theorem schedule_length_eq (b : Build) (t : Tier) (n : Nat) : (schedule b t n).length = scheduleLength b t n := by
  rw [schedule_length]
  cases t with
  | scalar => simp [bodyOps, scheduleLength]
  | batched =>
    rw [scheduleLength]
    split
    · simp [bodyOps, *]
    · rw [bodyOps_batched_length b (by omega)]; omega
  | vector =>
    rw [scheduleLength]
    split
    · simp [bodyOps, *]
    · rw [bodyOps_vector_length (by omega), Nat.add_comm]

/-! ### Bytes consumed (44_sequencer.md R201) -/

theorem bytesConsumed_map_encode {w : Nat} {ops : List Instr} (h : ∀ i ∈ ops, i.isCommand = false) :
    bytesConsumed w (ops.map encode) = (ops.map (bytesTaken w)).sum := by
  induction ops with
  | nil => rfl
  | cons i ops ih =>
    rw [List.map_cons, bytesConsumed_encode w i _ (h i List.mem_cons_self),
      ih fun j hj => h j (List.mem_cons_of_mem _ hj), List.map_cons, List.sum_cons]

theorem bodyOps_bytesTaken (b : Build) (t : Tier) (n : Nat) : ((bodyOps b t n).map (bytesTaken b.w)).sum = n := by
  refine bodyOps_induction (P := fun ops m => (ops.map (bytesTaken b.w)).sum = m) ?append ?ssteps ?batched ?superBlock n
  case append =>
    intro xs ys m k hx hy
    rw [List.map_append, List.sum_append, hx, hy]
  case ssteps =>
    intro m; simp [bytesTaken]
  case batched =>
    intro _ m _; simp [batchedSegment, bytesTaken]
  case superBlock =>
    intro _ c _; simp [superBlockOps, bytesTaken]

theorem bytesConsumed_schedule (b : Build) (t : Tier) (n : Nat) : bytesConsumed b.w (schedule b t n) = n := by
  rw [schedule_eq, bytesConsumed_encode _ _ _ rfl, bytesConsumed_append,
    bytesConsumed_map_encode fun i hi => (bodyOps_inner b t n i hi).1, bodyOps_bytesTaken]
  exact Nat.zero_add n

/-! ### What can run (44_sequencer.md R211, R212) -/

/-- What is known after a list of micro-ops, if each can run. -/
def View.afterAll (b : Build) : View → List Instr → Option View
  | v, [] => some v
  | v, i :: ops => (v.after b i).bind fun v' => v'.afterAll b ops

theorem View.afterAll_append {b : Build} {u v : View} {xs : List Instr} (ys : List Instr)
    (h : u.afterAll b xs = some v) : u.afterAll b (xs ++ ys) = v.afterAll b ys := by
  induction xs generalizing u with
  | nil => cases h; rfl
  | cons i xs ih =>
    rw [View.afterAll, Option.bind_eq_some_iff] at h
    obtain ⟨u', hu, hv⟩ := h
    rw [List.cons_append, View.afterAll, hu, Option.bind_some, ih hv]

theorem View.after_pack (b : Build) (v : View) : v.after b .pack = none := rfl

theorem View.isCommand_of_after {b : Build} {v v' : View} {i : Instr} (h : v.after b i = some v') :
    i.isCommand = false := by
  cases i with
  | startScalar x | startBatched x | startVector x | startAuto x => cases h
  | _ => rfl

/-- The micro-op word at UPC runs as the last PACK, or it leaves something known from which the rest runs. -/
theorem runnable_cons_iff {b : Build} {w : Word} {rest : List Word} {v : View} :
    runnable b (w :: rest) v = true ↔
      ∃ i, decodeUop w = .ok i ∧
        ((i = .pack ∧ rest = [] ∧ v.acc = .reduced) ∨ ∃ v', v.after b i = some v' ∧ runnable b rest v' = true) := by
  rw [runnable]
  split
  case h_1 r hd => simp only [hd, reduceCtorEq, false_and, exists_false, Bool.false_eq_true]
  case h_2 hd =>
    simp only [hd, Except.ok.injEq, exists_eq_left', View.after_pack, reduceCtorEq, false_and, exists_false, or_false,
      true_and, Bool.and_eq_true, List.isEmpty_iff, decide_eq_true_eq]
  case h_3 i hne hd =>
    have hpack : i ≠ .pack := hne
    simp only [hd, Except.ok.injEq, exists_eq_left', hpack, false_and, false_or]
    cases v.after b i <;> simp

/-- Micro-ops that can run leave the rest to be run from what is known after them. -/
theorem runnable_append {b : Build} {u v : View} {ops : List Instr} (rest : List Word)
    (h : u.afterAll b ops = some v) (hrest : runnable b rest v = true) :
    runnable b (ops.map encode ++ rest) u = true := by
  induction ops generalizing u with
  | nil => cases h; exact hrest
  | cons i ops ih =>
    rw [View.afterAll, Option.bind_eq_some_iff] at h
    obtain ⟨u', hu, hv⟩ := h
    exact runnable_cons_iff.2 ⟨i, decodeUop_encode i (View.isCommand_of_after hu), .inr ⟨u', hu, ih hv⟩⟩

theorem View.afterAll_ssteps (b : Build) (l : Option Nat) (m : Nat) :
    View.afterAll b ⟨.reduced, l⟩ (List.replicate m .sstep) = some ⟨.reduced, l⟩ := by
  induction m with
  | zero => rfl
  | succ m ih => exact ih

theorem View.afterAll_rsteps (b : Build) {u : View} (hu : u.acc ≠ .nothing) (m : Nat) :
    ∃ v, u.afterAll b (List.replicate m .rstep) = some v ∧ v.acc ≠ .nothing := by
  induction m generalizing u with
  | zero => exact ⟨u, rfl, hu⟩
  | succ m ih =>
    obtain ⟨v, hv, hacc⟩ := ih (u := { u with acc := .present }) (by simp)
    exact ⟨v, by rw [List.replicate_succ, View.afterAll, View.after, if_neg hu]; exact hv, hacc⟩

theorem View.afterAll_chunks {b : Build} (hv : b.hasVector = true) (a : AccumView) {c l : Nat}
    (h : l + c * b.w ≤ 5552) :
    View.afterAll b ⟨a, some l⟩ (List.replicate c .vchunk) = some ⟨a, some (l + c * b.w)⟩ := by
  induction c generalizing l with
  | zero => simp [View.afterAll]
  | succ c ih =>
    have hmul : (c + 1) * b.w = b.w + c * b.w := by ring
    have hfits : l + b.w ≤ Config.nmax ∧ b.hasVector = true := ⟨by simp only [Config.nmax_eq]; omega, hv⟩
    have hafter : View.after b ⟨a, some l⟩ .vchunk = some ⟨a, some (l + b.w)⟩ := if_pos hfits
    rw [List.replicate_succ, View.afterAll, hafter, Option.bind_some, ih (by omega), hmul, Nat.add_assoc]

/-- Entered with a reduced pair, all between SEED and PACK can run, and leaves a reduced pair. -/
theorem bodyOps_afterAll {b : Build} {t : Tier} (ht : t = .vector → b.hasVector = true) (n : Nat) :
    ∀ l, ∃ l', View.afterAll b ⟨.reduced, l⟩ (bodyOps b t n) = some ⟨.reduced, l'⟩ := by
  refine bodyOps_induction (P := fun ops _ => ∀ l, ∃ l', View.afterAll b ⟨.reduced, l⟩ ops = some ⟨.reduced, l'⟩)
    ?append ?ssteps ?batched ?superBlock n
  case append =>
    intro xs ys m k hx hy l
    obtain ⟨l1, h1⟩ := hx l
    obtain ⟨l2, h2⟩ := hy l1
    exact ⟨l2, (View.afterAll_append ys h1).trans h2⟩
  case ssteps =>
    exact fun m l => ⟨l, View.afterAll_ssteps b l m⟩
  case batched =>
    intro _ m _ l
    obtain ⟨v, hv, hacc⟩ := View.afterAll_rsteps b (u := ⟨.reduced, l⟩) (by simp) m
    exact ⟨v.blen, by rw [batchedSegment, View.afterAll_append _ hv, View.afterAll, View.after, if_neg hacc]; rfl⟩
  case superBlock =>
    intro hvec c hc l
    have hv := ht hvec
    refine ⟨some (0 + c * b.w), ?_⟩
    rw [superBlockOps, View.afterAll, View.after, if_pos ⟨rfl, hv⟩, Option.bind_some,
      View.afterAll_append _ (View.afterAll_chunks hv .reduced (by omega))]
    simp [View.afterAll, View.after, hv]

/-- A whole schedule can run from nothing known. -/
theorem runnable_schedule {b : Build} {t : Tier} (ht : t = .vector → b.hasVector = true) (n : Nat) :
    runnable b (schedule b t n) ⟨.nothing, none⟩ = true := by
  obtain ⟨l, hbody⟩ := bodyOps_afterAll ht n none
  rw [schedule_eq]
  refine runnable_append (ops := .seed :: bodyOps b t n) _ (v := ⟨.reduced, l⟩) hbody ?_
  exact runnable_cons_iff.2 ⟨.pack, rfl, .inl ⟨rfl, rfl, rfl⟩⟩

/-! ### Selection (44_sequencer.md R197, R204) -/

theorem selectTier_auto (b : Build) (n : Nat) :
    selectTier b 0b11 n =
      if b.hasVector = true ∧ b.w ≤ n then .vector else if 16 ≤ n then .batched else .scalar := rfl

/-- Without the vector tier only ENGINE = VECTOR selects it. -/
theorem selectTier_eq_vector {b : Build} {g : BitVec 2} {n : Nat} (h : selectTier b g n = .vector) :
    g = 0b10 ∨ b.hasVector = true := by
  unfold selectTier at h
  split at h
  · cases h
  · cases h
  · rename_i hg; exact .inl (BitVec.eq_of_toNat_eq hg)
  · split_ifs at h with hv
    exact .inr hv.1

end Sys2Proof.Machine
end

section
/-! PROOFS. What the sequencer family's statements rest on, second part: what a micro-op does that can run from what is
known of the datapath, and that every turn keeps the invariant and meets no model-only fault. -/

namespace Sys2Proof.Machine

/-! ### A pending read (93_implementation_defined.md I8) -/

theorem exec_byteReader_silent {s : State} {a : Accum} {q : Sequencer} {i : Instr} (hi : i = .sstep ∨ i = .rstep)
    (ha : s.eng.acc = some a) (hq : s.eng.seq = some q) (h : s.platform.answer q.ptr = .silent) :
    exec i s = .next s := by
  obtain rfl | rfl := hi
  · rw [exec, execSstep, withAccum_some _ ha, withSequencer_some _ hq, State.memRead_eq_silent.2 h, withReply]
  · rw [exec, execRstep, withAccum_some _ ha, withSequencer_some _ hq, State.memRead_eq_silent.2 h, withReply]

theorem exec_vchunk_silent {s : State} {v : Block} {q : Sequencer} {k : Nat} (hv : s.eng.build.hasVector = true)
    (hb : s.eng.blk = some v) (hq : s.eng.seq = some q) (hk : k < s.eng.build.w)
    (hbefore : ∀ j, j < k → s.platform.answer (byteAddr q.ptr j) = .answers)
    (h : s.platform.answer (byteAddr q.ptr k) = .silent) : exec .vchunk s = .next s := by
  obtain ⟨-, hstop, -⟩ := s.memReads_stops s.eng.build.w q.ptr s.draws k hk hbefore
  rw [exec, execVchunk, withVectorTier_true _ hv, withBlock_some _ hb, withSequencer_some _ hq, hstop h, withReply]

/-- All of `n` reads complete, or there is a first one that does not. -/
theorem answers_or_first_stop (p : Platform) (a : Word) (n : Nat) :
    (∀ k, k < n → p.answer (byteAddr a k) = .answers) ∨
      ∃ k, k < n ∧ (∀ j, j < k → p.answer (byteAddr a j) = .answers) ∧ p.answer (byteAddr a k) ≠ .answers := by
  induction n with
  | zero => exact .inl fun k hk => absurd hk (Nat.not_lt_zero k)
  | succ n ih =>
    obtain hall | ⟨k, hk, hfirst⟩ := ih
    · by_cases hn : p.answer (byteAddr a n) = .answers
      · exact .inl fun k hk => (Nat.lt_succ_iff_lt_or_eq.1 hk).elim (hall k) fun h => h ▸ hn
      · exact .inr ⟨n, Nat.lt_succ_self n, hall, hn⟩
    · exact .inr ⟨k, Nat.lt_succ_of_lt hk, hfirst⟩

/-! ### What is known of the datapath (44_sequencer.md R211, R212) -/

/-- Nothing is known of an engine without datapath values, and that holds of every engine. -/
theorem View.describes_nothing (e : Engine) : View.Describes ⟨.nothing, none⟩ e where
  present h := absurd rfl h
  reduced := nofun
  block := nofun

theorem View.Describes.congr {v : View} {e e' : Engine} (h : v.Describes e) (ha : e'.acc = e.acc)
    (hb : e'.blk = e.blk) (hw : e'.build = e.build) : v.Describes e' where
  present := ha ▸ h.present
  reduced := ha ▸ h.reduced
  block := hb ▸ hw ▸ h.block

/-- New values of S1 and S2 leave the super-block known. -/
theorem View.Describes.withAcc {v : View} {e : Engine} (h : v.Describes e) {e' : Engine} {a : Accum} (p : AccumView)
    (ha : e'.acc = some a) (hr : p = .reduced → a.isReduced = true) (hb : e'.blk = e.blk) (hw : e'.build = e.build) :
    View.Describes { v with acc := p } e' where
  present _ := ⟨a, ha⟩
  reduced hp := ⟨a, ha, hr hp⟩
  block := hb ▸ hw ▸ h.block

/-- New values of the super-block registers leave S1 and S2 known. -/
theorem View.Describes.withBlock {v : View} {e : Engine} (h : v.Describes e) {e' : Engine} {k : Block} {l : Nat}
    (hb : e'.blk = some k) (hl : k.blen.toNat = l) (hn : l ≤ 5552) (hs : k.s1e.toNat < 65521)
    (hw : k.lanes.length = e'.build.w) (ha : e'.acc = e.acc) : View.Describes { v with blen := some l } e' where
  present := ha ▸ h.present
  reduced := ha ▸ h.reduced
  block _ h := by cases h; exact ⟨k, hb, hl, hn, hs, hw⟩

/-! ### A micro-op that can run -/

theorem Sequencer.consume_zero (q : Sequencer) : q.consume 0 = q := by
  simp [Sequencer.consume]

/-- `t` is `s` after the engine in focus, with sequencer `q`, has completed micro-op `i`; `v` is known from then on. -/
structure Completes (i : Instr) (q : Sequencer) (v : View) (s t : State) : Prop where
  frame : ∃ acc blk d, t = { s with
    draws := d
    eng := { s.eng with acc := acc, blk := blk, seq := some (q.consume (bytesTaken s.eng.build.w i)).advance } }
  no_tier : s.eng.build.hasVector = false → t.eng.blk = s.eng.blk
  describes : v.Describes t.eng

/-- What a micro-op other than PACK can answer that may run: it completes, it raises ReadFault at a refused address, its
read is pending, or its read has side effects. -/
inductive MicroOpAnswer (i : Instr) (q : Sequencer) (v : View) (s : State) : Result → Prop where
  | completes {t : State} (h : Completes i q v s t) : MicroOpAnswer i q v s (.next t)
  | refused {a : Word} (h : s.platform.answer a = .refused) : MicroOpAnswer i q v s (.next (s.raise (.readFault a)))
  | pending {a : Word} (h : s.platform.answer a = .silent) : MicroOpAnswer i q v s (.next s)
  | sideEffects {a : Word} (h : s.platform.answer a = .sideEffects) :
      MicroOpAnswer i q v s (.refused .sideEffectRead)

/-- A micro-op that reads no memory completes in the state `State.complete` gives. -/
theorem MicroOpAnswer.of_complete {i : Instr} {q : Sequencer} {v : View} {s : State} {e : Engine}
    (hq : s.eng.seq = some q) (hi : bytesTaken s.eng.build.w i = 0)
    (he : ∃ acc blk, e = { s.eng with acc := acc, blk := blk })
    (hb : s.eng.build.hasVector = false → e.blk = s.eng.blk) (hv : v.Describes e) :
    MicroOpAnswer i q v s (.next (s.complete e)) := by
  obtain ⟨acc, blk, rfl⟩ := he
  refine .completes ⟨⟨acc, blk, s.draws, ?_⟩, hb, hv.congr rfl rfl rfl⟩
  rw [hi, Sequencer.consume_zero]
  simp only [State.complete, hq, Option.map_some]

/-- SSTEP and RSTEP with a value in S1 and S2: the answer at PTR decides. -/
theorem exec_byteReader_answer {i : Instr} {s : State} {q : Sequencer} {v : View} {a : Accum} {p : AccumView}
    {f : Accum → Byte → Accum} (hi : i = .sstep ∨ i = .rstep) (hq : s.eng.seq = some q) (ha : s.eng.acc = some a)
    (hexec : s.platform.answer q.ptr = .answers → exec i s = .next
      (s.afterByte (s.drawsAfter q.ptr s.draws) (f a (s.readValue q.ptr s.draws)) q))
    (hf : p = .reduced → ∀ b, (f a b).isReduced = true) (hd : v.Describes s.eng) :
    MicroOpAnswer i q { v with acc := p } s (exec i s) := by
  cases h : s.platform.answer q.ptr with
  | answers =>
    have htaken : bytesTaken s.eng.build.w i = 1 := by obtain rfl | rfl := hi <;> rfl
    rw [hexec h]
    refine .completes ⟨⟨_, s.eng.blk, _, by rw [htaken]⟩, fun _ => rfl, ?_⟩
    exact hd.withAcc p rfl (fun hp => hf hp _) rfl rfl
  | refused => rw [exec_byteReader_refused hi ha hq h]; exact .refused h
  | silent => rw [exec_byteReader_silent hi ha hq h]; exact .pending h
  | sideEffects => rw [exec_byteReader_sideEffects hi ha hq h]; exact .sideEffects h

/-- VCHUNK in a super-block with room for a chunk: the first read of the chunk that does not complete decides. -/
theorem exec_vchunk_answer {s : State} {q : Sequencer} {v : View} {l : Nat} (hv : s.eng.build.hasVector = true)
    (hq : s.eng.seq = some q) (hl : v.blen = some l) (hroom : l + s.eng.build.w ≤ 5552) (hd : v.Describes s.eng) :
    MicroOpAnswer .vchunk q { v with blen := some (l + s.eng.build.w) } s (exec .vchunk s) := by
  obtain ⟨k, hk, hblen, -, hs1e, hlanes⟩ := hd.block l hl
  obtain hall | ⟨n, hn, hbefore, hstop⟩ := answers_or_first_stop s.platform q.ptr s.eng.build.w
  · obtain ⟨bytes, d, hr, hlength, -, -⟩ := s.memReads_got s.eng.build.w q.ptr s.draws hall
    rw [exec_vchunk_got hv hk hq hr (by omega)]
    refine .completes ⟨⟨s.eng.acc, _, d, rfl⟩, fun hno => ?_, hd.withBlock rfl ?_ hroom hs1e ?_ rfl⟩
    · rw [hv] at hno; cases hno
    · show (u32 (k.blen.toNat + s.eng.build.w)).toNat = _
      rw [hblen, u32_toNat (by omega)]
    · show (addBytes k.lanes bytes).length = s.eng.build.w
      rw [List.length_zipWith, hlanes, hlength, Nat.min_self]
  · cases h : s.platform.answer (byteAddr q.ptr n) with
    | answers => exact absurd h hstop
    | refused => rw [exec_vchunk_refused hv hk hq hn hbefore h]; exact .refused h
    | silent => rw [exec_vchunk_silent hv hk hq hn hbefore h]; exact .pending h
    | sideEffects => rw [exec_vchunk_sideEffects hv hk hq hn hbefore h]; exact .sideEffects h

/-- A micro-op that what is known lets run completes, raises ReadFault, is pending or is refused, and never faults. -/
theorem exec_answer {i : Instr} {s : State} {q : Sequencer} {v v' : View} (hq : s.eng.seq = some q)
    (hd : v.Describes s.eng) (hafter : v.after s.eng.build i = some v') : MicroOpAnswer i q v' s (exec i s) := by
  cases i with
  | seed =>
    cases hafter
    rw [exec_seed]
    exact .of_complete hq rfl ⟨_, _, rfl⟩ (fun _ => rfl) (hd.withAcc _ rfl (fun _ => by decide) rfl rfl)
  | sstep =>
    simp only [View.after, Option.ite_none_left_eq_some, Option.some.injEq] at hafter
    obtain ⟨hacc, rfl⟩ := hafter
    obtain ⟨a, ha⟩ := hd.present hacc
    exact exec_byteReader_answer (.inl rfl) hq ha (exec_sstep_answers ha hq) (fun _ => a.stepReduced_isReduced) hd
  | rstep =>
    simp only [View.after, Option.ite_none_left_eq_some, Option.some.injEq] at hafter
    obtain ⟨hacc, rfl⟩ := hafter
    obtain ⟨a, ha⟩ := hd.present hacc
    exact exec_byteReader_answer (.inr rfl) hq ha (exec_rstep_answers ha hq) nofun hd
  | reduce =>
    simp only [View.after, Option.ite_none_left_eq_some, Option.some.injEq] at hafter
    obtain ⟨hacc, rfl⟩ := hafter
    obtain ⟨a, ha⟩ := hd.present hacc
    rw [exec_reduce ha]
    exact .of_complete hq rfl ⟨_, _, rfl⟩ (fun _ => rfl) (hd.withAcc _ rfl (fun _ => a.reduced_isReduced) rfl rfl)
  | vbegin =>
    simp only [View.after, Option.ite_none_right_eq_some, Option.some.injEq] at hafter
    obtain ⟨⟨hacc, hv⟩, rfl⟩ := hafter
    obtain ⟨a, ha, hr⟩ := hd.reduced hacc
    rw [exec_vbegin_reduced hv ha hr]
    refine .of_complete hq rfl ⟨_, _, rfl⟩ (fun hno => ?_) ?_
    · rw [hv] at hno; cases hno
    · exact hd.withBlock rfl rfl (Nat.zero_le _) (a.isReduced_iff.1 hr).1 List.length_replicate rfl
  | vchunk =>
    rw [View.after] at hafter
    split at hafter
    · rename_i l hl
      simp only [Option.ite_none_right_eq_some, Option.some.injEq] at hafter
      obtain ⟨⟨hroom, hv⟩, rfl⟩ := hafter
      exact exec_vchunk_answer hv hq hl hroom hd
    · cases hafter
  | vrecon =>
    simp only [View.after, Option.ite_none_right_eq_some, Option.some.injEq] at hafter
    obtain ⟨⟨hacc, hblen, hv⟩, rfl⟩ := hafter
    obtain ⟨a, ha, hr⟩ := hd.reduced hacc
    obtain ⟨l, hl⟩ := Option.ne_none_iff_exists'.1 hblen
    obtain ⟨k, hk, hkl, hln, hs1e, -⟩ := hd.block l hl
    have hrecon : (k.reconciled s.eng.build.w a.s2).isReduced = true := by
      rw [Accum.isReduced_iff, Block.reconciled_s1, Block.reconciled_s2]; omega
    rw [exec_vrecon_reconciled hv ha hk ((k.mayReconcile_iff _).2 ⟨by rwa [hkl], hs1e, (a.isReduced_iff.1 hr).2⟩)]
    have hknown := hd.withAcc (e' := { s.eng with acc := some (k.reconciled s.eng.build.w a.s2) }) v.acc rfl
      (fun _ => hrecon) rfl rfl
    exact .of_complete hq rfl ⟨_, _, rfl⟩ (fun _ => rfl) hknown
  | pack | startScalar x | startBatched x | startVector x | startAuto x => cases hafter

/-! ### The invariant of an engine (10_state.md R24, R34, R38) -/

/-- What the Host writes while the engine runs is no part of the invariant. -/
theorem Engine.Inv.withHostRegisters {e : Engine} (h : e.Inv) (g : BitVec 2) (src len : Word) :
    Engine.Inv { e with ctrlEngine := g, srcAddr := src, length := len } where
  build_legal := h.build_legal
  status_legal := h.status_legal
  result_reduced := h.result_reduced
  no_tier := h.no_tier
  idle := h.idle
  running hb := by
    obtain ⟨q, v, hq, hinv, hd, hrun⟩ := h.running hb
    exact ⟨q, v, hq, hinv, hd.congr rfl rfl rfl, hrun⟩

/-- An engine that an operation has left. -/
theorem Engine.inv_of_discarded {e : Engine} (hl : e.build.legal = true) (hs : e.status.legal = true)
    (hr : halvesReduced e.result = true) (hb : e.status.busy = false) (ha : e.acc = none) (hk : e.blk = none)
    (hq : e.seq = none) : e.Inv where
  build_legal := hl
  status_legal := hs
  result_reduced := hr
  no_tier _ := hk
  idle _ := ⟨ha, hk, hq⟩
  running h := by rw [hb] at h; cases h

theorem Engine.Inv.terminate {e : Engine} (h : e.Inv) (c : ErrorCause) : (e.terminate c).Inv :=
  Engine.inv_of_discarded h.build_legal (Status.legal_failed c) h.result_reduced rfl rfl rfl rfl

theorem Engine.Inv.reject {e : Engine} (h : e.Inv) (hidle : e.status.busy = false) (c : ErrorCause) :
    (e.reject c).Inv := by
  obtain ⟨ha, hk, hq⟩ := h.idle hidle
  exact Engine.inv_of_discarded h.build_legal (Status.legal_failed c) h.result_reduced rfl ha hk hq

theorem halvesReduced_packed {a : Accum} (h : a.isReduced = true) : halvesReduced a.packed = true := by
  obtain ⟨hhigh, hlow⟩ := Accum.packed_halves_le h
  simp only [halvesReduced, Config.modulus_eq, Bool.and_eq_true, decide_eq_true_eq]
  omega

/-- What PACK leaves of an engine. -/
theorem Engine.Inv.pack {e : Engine} (h : e.Inv) {a : Accum} (ha : a.isReduced = true) :
    Engine.Inv { e.discard with result := a.packed, status := Status.packed } :=
  Engine.inv_of_discarded h.build_legal Status.legal_packed (halvesReduced_packed ha) rfl rfl rfl rfl

/-- The sequencer that START sets up. -/
theorem Engine.newSequencer_inv {e : Engine} (hv : e.ctrlEngine = 0b10 → e.build.hasVector = true)
    (hspace : e.length.toNat = 0 ∨ e.srcAddr.toNat + e.length.toNat ≤ 2 ^ 32) : e.newSequencer.Inv e.build where
  sched_eq := rfl
  tier_built h := (selectTier_eq_vector h).elim hv id
  in_space := hspace.imp_left fun h => BitVec.eq_of_toNat_eq h
  upc_lt := by simp [schedule_length]
  ptr_eq := by simp [bytesConsumed]

/-- An idle engine that accepts a START runs its schedule from nothing known. -/
theorem Engine.Inv.accept {e : Engine} (h : e.Inv) (hidle : e.status.busy = false)
    (hv : e.ctrlEngine = 0b10 → e.build.hasVector = true)
    (hspace : e.length.toNat = 0 ∨ e.srcAddr.toNat + e.length.toNat ≤ 2 ^ 32) : e.accept.Inv where
  build_legal := h.build_legal
  status_legal := Status.legal_started
  result_reduced := h.result_reduced
  no_tier _ := (h.idle hidle).2.1
  idle hb := nomatch hb
  running _ :=
    have hq := Engine.newSequencer_inv hv hspace
    ⟨e.newSequencer, ⟨.nothing, none⟩, rfl, hq, View.describes_nothing _, runnable_schedule hq.tier_built _⟩

theorem Engine.Inv.start {e : Engine} (h : e.Inv) (hidle : e.status.busy = false) : e.start.Inv := by
  obtain ⟨-, -, hs⟩ | ⟨-, -, hs⟩ | ⟨hv, hspace, hs⟩ := e.start_cases <;> rw [hs]
  · exact h.reject hidle _
  · exact h.reject hidle _
  · exact h.accept hidle hv hspace

/-- The marks of racing writes are no part of the invariant. -/
theorem Engine.Inv.noteWrites {e : Engine} (h : e.Inv) (l : List Nat) : (e.noteWrites l).Inv := by
  cases hq : e.seq with
  | none => rwa [Engine.noteWrites_none hq]
  | some q =>
    obtain ⟨r, he, -, -⟩ := Engine.noteWrites_some l hq
    rw [he]
    exact {
      build_legal := h.build_legal
      status_legal := h.status_legal
      result_reduced := h.result_reduced
      no_tier := h.no_tier
      idle := fun hb => by
        obtain ⟨-, -, hnone⟩ := h.idle hb
        rw [hq] at hnone
        cases hnone
      running := fun hb => by
        obtain ⟨q', v, hq', hinv, hd, hrun⟩ := h.running hb
        obtain rfl : q = q' := Option.some.inj (hq.symm.trans hq')
        refine ⟨_, v, rfl, ?_, hd.congr rfl rfl rfl, hrun⟩
        exact ⟨hinv.sched_eq, hinv.tier_built, hinv.in_space, hinv.upc_lt, hinv.ptr_eq⟩ }

theorem Engine.Inv.noteWrite {e : Engine} (h : e.Inv) (a : Nat) : (e.noteWrite a).Inv := h.noteWrites [a]

/-! ### One micro-op of a running engine -/

/-- A BUSY engine has a next micro-op: the last PACK on a reduced pair, or one that can run before others that can. -/
theorem Engine.Inv.issues {e : Engine} (h : e.Inv) (hb : e.status.busy = true) :
    ∃ (q : Sequencer) (w : Word) (i : Instr) (v : View), e.seq = some q ∧ q.Inv e.build ∧ v.Describes e ∧
      q.sched[q.upc]? = some w ∧ decodeUop w = .ok i ∧
      ((i = .pack ∧ v.acc = .reduced) ∨
        ∃ v', v.after e.build i = some v' ∧ runnable e.build (q.sched.drop (q.upc + 1)) v' = true) := by
  obtain ⟨q, v, hq, hinv, hd, hrun⟩ := h.running hb
  rw [List.drop_eq_getElem_cons hinv.upc_lt, runnable_cons_iff] at hrun
  obtain ⟨i, hi, ⟨hpack, -, hacc⟩ | hafter⟩ := hrun
  · exact ⟨q, _, i, v, hq, hinv, hd, List.getElem?_eq_getElem hinv.upc_lt, hi, .inl ⟨hpack, hacc⟩⟩
  · exact ⟨q, _, i, v, hq, hinv, hd, List.getElem?_eq_getElem hinv.upc_lt, hi, .inr hafter⟩

/-- A completed micro-op with others after it moves PTR and UPC on within the schedule. -/
theorem Sequencer.Inv.advance {b : Build} {q : Sequencer} {w : Word} {i : Instr} {v : View} (h : q.Inv b)
    (hw : q.sched[q.upc]? = some w) (hi : decodeUop w = .ok i)
    (hrun : runnable b (q.sched.drop (q.upc + 1)) v = true) : (q.consume (bytesTaken b.w i)).advance.Inv b where
  sched_eq := h.sched_eq
  tier_built := h.tier_built
  in_space := h.in_space
  upc_lt := by
    by_contra hend
    have hnil : q.sched.drop (q.upc + 1) = [] := List.drop_of_length_le (Nat.not_lt.1 hend)
    rw [hnil] at hrun
    cases hrun
  ptr_eq := by
    have htake : bytesConsumed b.w (q.sched.take (q.upc + 1)) =
        bytesConsumed b.w (q.sched.take q.upc) + bytesTaken b.w i := by
      rw [List.take_add_one, hw, bytesConsumed_append]
      simp [bytesConsumed, hi]
    show q.ptr + u32 _ = q.base + u32 (bytesConsumed b.w (q.sched.take (q.upc + 1)))
    rw [htake, h.ptr_eq, u32, u32, u32, BitVec.ofNat_add, BitVec.add_assoc]

/-- A completed micro-op keeps the invariant of the engine, and the engine goes on from the next one. -/
theorem Completes.inv {i : Instr} {q : Sequencer} {w : Word} {v : View} {s t : State} (h : Completes i q v s t)
    (hs : s.eng.Inv) (hb : s.eng.status.busy = true) (hq : q.Inv s.eng.build) (hw : q.sched[q.upc]? = some w)
    (hi : decodeUop w = .ok i) (hrun : runnable s.eng.build (q.sched.drop (q.upc + 1)) v = true) : t.eng.Inv := by
  obtain ⟨⟨acc, blk, d, rfl⟩, hblk, hdesc⟩ := h
  exact {
    build_legal := hs.build_legal
    status_legal := hs.status_legal
    result_reduced := hs.result_reduced
    no_tier := fun hno => (hblk hno).trans (hs.no_tier hno)
    idle := fun hidle => by
      have hbusy : s.eng.status.busy = false := hidle
      rw [hb] at hbusy
      cases hbusy
    running := fun _ => ⟨_, v, rfl, hq.advance hw hi hrun, hdesc, hrun⟩ }

/-! ### Every turn (44_sequencer.md R211, R212) -/

/-- The answer is no model-only fault, and the next state, if there is one, meets the invariant. -/
def Safe : Result → Prop
  | .next t => t.Inv
  | .fault _ => False
  | .refused _ => True

theorem State.Inv.withEng {s : State} (h : s.Inv) {e : Engine} {d : Nat} (he : e.Inv) :
    State.Inv { s with eng := e, draws := d } :=
  ⟨h.mem_wf, he, h.others⟩

theorem engineTurn_safe {s : State} (h : s.Inv) : Safe s.engineTurn := by
  cases hb : s.eng.status.busy with
  | false => rw [engineTurn_idle hb]; exact h
  | true =>
    obtain ⟨q, w, i, v, hq, hinv, hd, hw, hi, ⟨rfl, hacc⟩ | ⟨v', hafter, hrun⟩⟩ := h.eng.issues hb
    · obtain ⟨a, ha, hr⟩ := hd.reduced hacc
      rw [engineTurn_issue hb hq hw hi, exec_pack_reduced ha hr]
      exact h.withEng (h.eng.pack (s.finalPair_isReduced hr))
    · rw [engineTurn_issue hb hq hw hi]
      have hanswer := exec_answer hq hd hafter
      generalize exec i s = r at hanswer ⊢
      cases hanswer with
      | completes hc =>
        have heng := hc.inv h.eng hb hinv hw hi hrun
        obtain ⟨acc, blk, d, rfl⟩ := hc.frame
        exact h.withEng heng
      | refused _ => exact h.withEng (h.eng.terminate _)
      | pending _ => exact h
      | sideEffects _ => trivial

theorem State.Inv.startCommand {s : State} (h : s.Inv) (engine : BitVec 2) : (s.startCommand engine).Inv := by
  cases hb : s.eng.status.busy with
  | true => rwa [State.startCommand_busy engine hb]
  | false =>
    rw [State.startCommand_idle engine hb]
    exact h.withEng ((h.eng.withHostRegisters engine s.eng.srcAddr s.eng.length).start hb)

theorem State.Inv.setEngine {s : State} (h : s.Inv) (engine : BitVec 2) : (s.setEngine engine).Inv := by
  cases hb : s.eng.status.busy with
  | true => rw [State.setEngine, if_pos hb]; exact h
  | false =>
    rw [State.setEngine_idle engine hb]
    exact h.withEng (h.eng.withHostRegisters engine s.eng.srcAddr s.eng.length)

/-- A register write other than CTRL stores SRC_ADDR or LENGTH, or nothing. -/
theorem Engine.writeReg_frame (e : Engine) (off : Nat) (data : Word) :
    ∃ src len, e.writeReg off data = { e with srcAddr := src, length := len } := by
  unfold Engine.writeReg
  split
  · exact ⟨data, e.length, rfl⟩
  · exact ⟨e.srcAddr, data, rfl⟩
  · exact ⟨e.srcAddr, e.length, rfl⟩

theorem Engine.Inv.writeReg {e : Engine} (h : e.Inv) (off : Nat) (data : Word) : (e.writeReg off data).Inv := by
  obtain ⟨src, len, he⟩ := e.writeReg_frame off data
  rw [he]
  exact h.withHostRegisters e.ctrlEngine src len

theorem writeAt_safe {s : State} (h : s.Inv) (off : Nat) (data : Word) : Safe (s.writeAt off data) := by
  by_cases hoff : off = 0x04
  · subst hoff
    cases hd : decodeCmd data with
    | ok i => rw [writeAt_command hd, exec_of_decodeCmd s hd]; exact h.startCommand _
    | error r => rw [writeAt_setEngine hd]; exact h.setEngine _
  · rw [State.writeAt, if_neg hoff]
    exact h.withEng (h.eng.writeReg off data)

theorem State.Inv.focusOn {s : State} (h : s.Inv) (k : Nat) : (s.focusOn k).Inv := by
  obtain hs | ⟨e, he, hs⟩ := s.focusOn_cases k <;> rw [hs]
  · exact h
  · refine ⟨h.mem_wf, h.others e (List.mem_of_getElem? he), fun e' he' => ?_⟩
    obtain hmem | rfl := List.mem_or_eq_of_mem_set he'
    · exact h.others e' hmem
    · exact h.eng

theorem State.Inv.answerRead {s : State} (h : s.Inv) (off : Nat) : (s.answerRead off).Inv :=
  ⟨h.mem_wf, h.eng, h.others⟩

theorem access_safe {s : State} (h : s.Inv) (width : AccessWidth) (addr : Word) {k : Nat → State → Result}
    (hk : ∀ off s1, State.Inv s1 → Safe (k off s1)) : Safe (s.access width addr k) := by
  cases ha : s.attend addr with
  | none => rw [access_none width k ha]; trivial
  | some s1 =>
    have hs1 : s1.Inv := by
      obtain rfl | ⟨n, rfl⟩ := State.attend_cases ha
      · exact h
      · exact h.focusOn n
    simp only [State.access, ha]
    split
    · exact hk _ s1 hs1
    · trivial

theorem hostLine_safe {s : State} (h : s.Inv) (line : HostLine) : Safe (s.hostLine line) := by
  cases line with
  | wr width addr data =>
    rw [hostLine_wr]
    exact access_safe h width addr fun off s1 hs1 => writeAt_safe hs1 off data
  | rd width addr =>
    rw [hostLine_rd]
    exact access_safe h width addr fun off s1 hs1 => hs1.answerRead off
  | poll addr =>
    rw [hostLine_poll]
    refine access_safe h .word addr fun off s1 hs1 => ?_
    split <;> exact ⟨hs1.mem_wf, hs1.eng, hs1.others⟩
  | store addr b =>
    refine ⟨Memory.write_wf _ _ _ h.mem_wf addr.isLt, h.eng.noteWrite _, fun e he => ?_⟩
    obtain ⟨e', he', rfl⟩ := List.mem_map.1 he
    exact (h.others e' he').noteWrite _
  | clean lo size =>
    refine ⟨h.mem_wf, h.eng.noteWrites _, fun e he => ?_⟩
    obtain ⟨e', he', rfl⟩ := List.mem_map.1 he
    exact (h.others e' he').noteWrites _

theorem hostTurn_safe {s : State} (h : s.Inv) : Safe s.hostTurn := by
  cases hl : s.host with
  | nil => rw [State.hostTurn, hl]; exact h
  | cons line rest =>
    rw [hostTurn_cons hl]
    exact hostLine_safe (s := { s with host := rest }) ⟨h.mem_wf, h.eng, h.others⟩ line

theorem takeTurn_safe {s : State} (h : s.Inv) (t : Turn) : Safe (s.takeTurn t) := by
  cases t with
  | host => exact hostTurn_safe h
  | engine => exact engineTurn_safe h
  | reset => exact h.withEng (Engine.afterReset_inv h.eng.build_legal)
  | focus k => exact h.focusOn k

theorem defaultTurn_safe {s : State} (h : s.Inv) : Safe s.defaultTurn := by
  cases hb : s.eng.status.busy with
  | true => rw [defaultTurn_busy hb]; exact engineTurn_safe h
  | false =>
    rw [State.defaultTurn, hb, if_neg Bool.false_ne_true]
    split
    · exact hostTurn_safe h
    · split
      · exact h.focusOn _
      · exact h

/-- From a state of the invariant no step faults, and a next state is one of the invariant. -/
theorem step_safe {s : State} (h : s.Inv) : Safe (step s) := by
  cases ht : s.turns with
  | nil => rw [step_default ht]; exact defaultTurn_safe h
  | cons t rest =>
    rw [step_turn ht]
    exact takeTurn_safe (s := { s with turns := rest }) ⟨h.mem_wf, h.eng, h.others⟩ t

end Sys2Proof.Machine
end

section
/-! PROOFS. What the sequencer family's statements rest on, third part: START where it accepts, Host accesses during a
run, and whole operations, which reach what SSTEPs over the buffer reach. -/

namespace Sys2Proof.Machine

/-! ### START where it accepts (44_sequencer.md R193) -/

/-- A command that both checks of START let pass begins the operation. -/
theorem exec_command_accepted {i : Instr} {s : State} (hc : i.isCommand = true) (hidle : s.eng.status.busy = false)
    (hv : engineCode i = 0b10 → s.eng.build.hasVector = true)
    (hspace : s.eng.length.toNat = 0 ∨ s.eng.srcAddr.toNat + s.eng.length.toNat ≤ 2 ^ 32) :
    exec i s = .next { s with eng := Engine.accept { s.eng with ctrlEngine := engineCode i } } := by
  rw [exec_command s hc, State.startCommand_idle _ hidle]
  obtain ⟨hg, hno, -⟩ | ⟨hover, hpos, -⟩ | ⟨-, -, hs⟩ := Engine.start_cases { s.eng with ctrlEngine := engineCode i }
  · have hyes : s.eng.build.hasVector = false := hno
    rw [hv hg] at hyes
    cases hyes
  · have hover' : 2 ^ 32 < s.eng.srcAddr.toNat + s.eng.length.toNat := hover
    have hpos' : 0 < s.eng.length.toNat := hpos
    omega
  · rw [hs]

/-- A command after which the engine is BUSY has passed both checks of START. -/
theorem exec_command_busy {i : Instr} {s t : State} (hc : i.isCommand = true) (hidle : s.eng.status.busy = false)
    (h : exec i s = .next t) (hb : t.eng.status.busy = true) :
    (engineCode i = 0b10 → s.eng.build.hasVector = true) ∧
      t = { s with eng := Engine.accept { s.eng with ctrlEngine := engineCode i } } := by
  rw [exec_command s hc, State.startCommand_idle _ hidle] at h
  cases h
  obtain ⟨-, -, hs⟩ | ⟨-, -, hs⟩ | ⟨hv, -, hs⟩ := Engine.start_cases { s.eng with ctrlEngine := engineCode i }
  · simp [hs, Status.failed] at hb
  · simp [hs, Status.failed] at hb
  · exact ⟨hv, by rw [hs]⟩

theorem encode_injective : Function.Injective encode := fun i j h => by
  have hi := decodeWord_eq_ok_iff.2 h
  rw [decodeWord_eq_ok_iff.2 rfl] at hi
  exact (Except.ok.inj hi).symm

/-- Only a schedule of the vector tier holds a vector micro-op's word. -/
theorem vectorWord_not_mem_schedule {t : Tier} (ht : t ≠ .vector) (b : Build) (n : Nat) {i : Instr}
    (hi : i.isVector = true) : encode i ∉ schedule b t n := by
  rw [schedule, microOps_eq, List.mem_map_of_injective encode_injective]
  intro hmem
  obtain rfl | hmem := List.mem_cons.1 hmem
  · cases hi
  obtain hmem | hmem := List.mem_append.1 hmem
  · rw [bodyOps_not_isVector ht b n i hmem] at hi; cases hi
  · rw [List.mem_singleton.1 hmem] at hi; cases hi

/-! ### Host accesses during a run (70_reset_and_hazards.md R272, R273) -/

/-- A register write while BUSY stores SRC_ADDR or LENGTH, or nothing. -/
theorem writeAt_busy {s t : State} {off : Nat} {data : Word} (hb : s.eng.status.busy = true)
    (h : s.writeAt off data = .next t) :
    ∃ src len, t = { s with eng := { s.eng with srcAddr := src, length := len } } := by
  by_cases hoff : off = 0x04
  · subst hoff
    cases hd : decodeCmd data with
    | ok i =>
      rw [writeAt_command hd, exec_of_decodeCmd s hd, State.startCommand_busy _ hb] at h
      cases h
      exact ⟨_, _, rfl⟩
    | error r =>
      rw [writeAt_setEngine hd, State.setEngine, if_pos hb] at h
      cases h
      exact ⟨_, _, rfl⟩
  · obtain ⟨src, len, he⟩ := s.eng.writeReg_frame off data
    rw [State.writeAt, if_neg hoff, he] at h
    cases h
    exact ⟨src, len, rfl⟩

/-- A Host access of the running block changes at most SRC_ADDR and LENGTH, and on the Host's side its next line and the
data of its last read. -/
theorem hostLine_busy {s t : State} {line : HostLine} {addr : Word} (hb : s.eng.status.busy = true)
    (hown : s.eng.offsetOf addr < 256)
    (hl : (∃ width data, line = .wr width addr data) ∨ (∃ width, line = .rd width addr) ∨ line = .poll addr)
    (h : s.hostLine line = .next t) :
    ∃ src len host last, t = { s with
      eng := { s.eng with srcAddr := src, length := len }
      host := host
      lastRead := last } := by
  have focus {width k} (h : s.access width addr k = .next t) : ∃ off, k off s = .next t := by
    obtain ⟨s1, hs1, -, -, hk⟩ := State.access_eq_next h
    rw [attend_self hown] at hs1
    cases hs1
    exact ⟨_, hk⟩
  obtain ⟨width, data, rfl⟩ | ⟨width, rfl⟩ | rfl := hl
  · obtain ⟨off, hk⟩ := focus (hostLine_wr s width addr data ▸ h)
    obtain ⟨src, len, rfl⟩ := writeAt_busy hb hk
    exact ⟨src, len, _, _, rfl⟩
  · obtain ⟨off, hk⟩ := focus (hostLine_rd s width addr ▸ h)
    cases hk
    exact ⟨_, _, _, _, rfl⟩
  · obtain ⟨off, hk⟩ := focus (hostLine_poll s addr ▸ h)
    split at hk <;> cases hk <;> exact ⟨_, _, _, _, rfl⟩

/-! ### The end of an operation (44_sequencer.md R207, 70_reset_and_hazards.md R281) -/

/-- A BUSY engine of the invariant whose reads complete or are refused ends its operation in at most as many steps as
its schedule has left. -/
theorem run_ends {n : Nat} {s : State} {q : Sequencer} (h : s.Inv) (ht : s.turns = [])
    (hb : s.eng.status.busy = true) (hq : s.eng.seq = some q) (hread : s.ReadsComplete)
    (hn : q.sched.length - q.upc ≤ n) :
    ∃ k t, k ≤ n ∧ Host.Core.run Sys2Proof.core k s = .next t ∧ t.eng.status.busy = false ∧
      (t.eng.status.done = true ∨ t.eng.status.err = true) := by
  induction n generalizing s q with
  | zero =>
    obtain ⟨q', -, -, -, hq', hinv, -⟩ := h.eng.issues hb
    obtain rfl : q = q' := Option.some.inj (hq.symm.trans hq')
    exact absurd hinv.upc_lt (by omega)
  | succ n ih =>
    obtain ⟨q', w, i, v, hq', -, hd, hw, hi, hcase⟩ := h.eng.issues hb
    obtain rfl : q = q' := Option.some.inj (hq.symm.trans hq')
    have hstep := step_issue ht hb hq hw hi
    obtain ⟨rfl, hacc⟩ | ⟨v', hafter, -⟩ := hcase
    · obtain ⟨a, ha, hr⟩ := hd.reduced hacc
      rw [exec_pack_reduced ha hr] at hstep
      exact ⟨1, _, by omega, run_next 0 hstep, rfl, .inl rfl⟩
    · have hsafe := step_safe h
      have hanswer := exec_answer hq hd hafter
      rw [hstep] at hsafe
      generalize exec i s = r at hanswer hstep hsafe
      cases hanswer with
      | completes hc =>
        obtain ⟨acc, blk, d, rfl⟩ := hc.frame
        have hless : q.sched.length - (q.upc + 1) ≤ n := by omega
        obtain ⟨k, t, hk, hrun, hend⟩ := ih hsafe ht hb rfl hread hless
        exact ⟨k + 1, t, by omega, (run_next k hstep).trans hrun, hend⟩
      | refused _ => exact ⟨1, _, by omega, run_next 0 hstep, rfl, .inr rfl⟩
      | @pending a hp => exact absurd (hread a) (by simp [hp])
      | @sideEffects a hp => exact absurd (hread a) (by simp [hp])

/-! ### The bytes of a buffer by parts (20_memory.md R61) -/

theorem byteAddr_add (base : Word) (k m : Nat) : byteAddr (byteAddr base k) m = byteAddr base (k + m) := by
  simp only [byteAddr, u32, BitVec.ofNat_add, BitVec.add_assoc]

theorem Memory.bytes_add (m : Memory) (base : Word) (j k : Nat) :
    m.bytes base (j + k) = m.bytes base j ++ m.bytes (byteAddr base j) k := by
  simp [Memory.bytes, List.range_add, Function.comp_def, byteAddr_add]

theorem Memory.bytes_one (m : Memory) (base : Word) : m.bytes base 1 = [m.read base.toNat] := by
  simp [Memory.bytes, byteAddr_zero]

/-- The first `c` chunks of `w` bytes from `base` on. -/
def Memory.chunks (m : Memory) (base : Word) (w c : Nat) : List (List Byte) :=
  (List.range c).map fun j => m.bytes (byteAddr base (j * w)) w

theorem Memory.chunks_length (m : Memory) (base : Word) (w c : Nat) : (m.chunks base w c).length = c := by
  simp [Memory.chunks]

theorem Memory.length_of_mem_chunks {m : Memory} {base : Word} {w c : Nat} :
    ∀ x ∈ m.chunks base w c, x.length = w := by
  simp [Memory.chunks]

theorem Memory.chunks_succ (m : Memory) (base : Word) (w c : Nat) :
    m.chunks base w (c + 1) = m.chunks base w c ++ [m.bytes (byteAddr base (c * w)) w] := by
  simp [Memory.chunks, List.range_succ]

theorem Memory.chunks_flatten (m : Memory) (base : Word) (w c : Nat) :
    (m.chunks base w c).flatten = m.bytes base (c * w) := by
  induction c with
  | zero => simp [Memory.chunks, Memory.bytes]
  | succ c ih =>
    rw [Memory.chunks_succ, List.flatten_append, ih, List.flatten_singleton, Nat.succ_mul, Memory.bytes_add]

theorem superBlock_chunks_accumulates (m : Memory) (base : Word) (s1 : Word) {w c : Nat} (hw : 1 ≤ w)
    (hc : c * w ≤ 5552) :
    (superBlock w s1 (m.chunks base w c)).Accumulates w s1 (m.chunks base w c) :=
  superBlock_accumulates s1 hw Memory.length_of_mem_chunks (by rwa [Memory.chunks_length])

theorem superBlock_chunks_blen (m : Memory) (base : Word) (s1 : Word) {w c : Nat} (hw : 1 ≤ w) (hc : c * w ≤ 5552) :
    (superBlock w s1 (m.chunks base w c)).blen.toNat = c * w := by
  rw [(superBlock_chunks_accumulates m base s1 hw hc).blen_eq, Memory.chunks_length]

/-- A super-block of at most NMAX bytes that a reduced pair has opened may be reconciled, into what SSTEPs over its
bytes reach (43_vector.md R173). -/
theorem superBlock_chunks_reconciled (m : Memory) (base : Word) {a : Accum} (ha : a.isReduced = true) {w c : Nat}
    (hw : 1 ≤ w) (hc : c * w ≤ 5552) :
    (superBlock w a.s1 (m.chunks base w c)).mayReconcile a.s2 = true ∧
      (superBlock w a.s1 (m.chunks base w c)).reconciled w a.s2 = (m.bytes base (c * w)).foldl Accum.stepReduced a := by
  obtain ⟨h1, h2⟩ := a.isReduced_iff.1 ha
  have hacc := superBlock_chunks_accumulates m base a.s1 hw hc
  constructor
  · rw [Block.mayReconcile_iff, superBlock_chunks_blen m base a.s1 hw hc, hacc.s1e_eq]
    exact ⟨hc, h1, h2⟩
  · rw [hacc.reconciled_eq Memory.length_of_mem_chunks ha, Memory.chunks_flatten]

/-! ### A run that nothing disturbs (44_sequencer.md R191, R210) -/

/-- The operation of the sequencer `q`, where the Engine takes every step, no agent has written the buffer, and every
read of it completes and is visible. -/
structure Undisturbed (s : State) (q : Sequencer) : Prop where
  alone : s.turns = []
  busy : s.eng.status.busy = true
  unraced : q.raced = []
  readable : s.Readable q.base q.n.toNat
  visible : s.Visible q.base q.n.toNat

/-- `s` with the datapath `acc`, `blk` in the operation of `q`, after `k` bytes and `j` micro-ops. -/
abbrev State.during (s : State) (q : Sequencer) (acc : Option Accum) (blk : Option Block) (k j : Nat) : State :=
  { s with eng := { s.eng with acc := acc, blk := blk, seq := some { q with ptr := byteAddr q.base k, upc := j } } }

/-- In an undisturbed run the reads of the buffer are no draws. -/
theorem Undisturbed.isDraw {s : State} {q : Sequencer} (h : Undisturbed s q) (acc : Option Accum) (blk : Option Block)
    (k j : Nat) {i : Nat} (hi : i < q.n.toNat) : (s.during q acc blk k j).isDraw (byteAddr q.base i) = false := by
  rw [Bool.eq_false_iff, Ne, State.isDraw_iff]
  rintro (⟨hc, hmem⟩ | ⟨q', hq', hmem⟩)
  · obtain hcoherent | hclean := h.visible
    · exact absurd (hc.symm.trans hcoherent) Bool.false_ne_true
    · exact hclean i hi hmem
  · cases hq'
    rw [show q.raced = [] from h.unraced] at hmem
    cases hmem

/-- The step issues the micro-op that the schedule holds after those done. -/
theorem Undisturbed.step_issues {s : State} {q : Sequencer} (h : Undisturbed s q) (acc : Option Accum)
    (blk : Option Block) (k : Nat) {j : Nat} {i : Instr} (hi : i.isCommand = false)
    (hj : q.sched[j]? = some (encode i)) :
    step (s.during q acc blk k j) = exec i (s.during q acc blk k j) :=
  step_issue h.alone h.busy rfl hj (decodeUop_encode i hi)

/-- PTR and UPC after a micro-op that consumes `t` bytes. -/
theorem State.during_consume (s : State) (q : Sequencer) (acc : Option Accum) (blk : Option Block) (k j t : Nat) :
    { s with eng := { s.eng with
      acc := acc
      blk := blk
      seq := some (({ q with ptr := byteAddr q.base k, upc := j } : Sequencer).consume t).advance } } =
      s.during q acc blk (k + t) (j + 1) := by
  have hptr : byteAddr q.base k + u32 t = byteAddr q.base (k + t) := byteAddr_add q.base k t
  simp only [State.during, Sequencer.consume, Sequencer.advance, hptr]

/-- The micro-ops `ops` stand in the schedule after the first `j`. -/
def Sequencer.Schedules (q : Sequencer) (j : Nat) (ops : List Instr) : Prop := ops.map encode <+: q.sched.drop j

theorem Sequencer.Schedules.head {q : Sequencer} {j : Nat} {i : Instr} {ops : List Instr}
    (h : q.Schedules j (i :: ops)) : q.sched[j]? = some (encode i) := by
  obtain ⟨rest, hrest⟩ := h
  rw [← Nat.add_zero j, ← List.getElem?_drop, ← hrest]
  rfl

theorem Sequencer.schedules_append {q : Sequencer} {j : Nat} {xs ys : List Instr} :
    q.Schedules j (xs ++ ys) → q.Schedules j xs ∧ q.Schedules (j + xs.length) ys := by
  rintro ⟨rest, hrest⟩
  rw [List.map_append, List.append_assoc] at hrest
  refine ⟨⟨_, hrest⟩, ⟨rest, ?_⟩⟩
  rw [← List.drop_drop, ← hrest, List.drop_append_of_le_length (by simp), List.drop_of_length_le (by simp),
    List.nil_append]

theorem Sequencer.Schedules.tail {q : Sequencer} {j : Nat} {i : Instr} {ops : List Instr}
    (h : q.Schedules j (i :: ops)) : q.Schedules (j + 1) ops :=
  (Sequencer.schedules_append (xs := [i]) h).2

/-- What SSTEP and RSTEP have in common: at a byte that answers, `f` folds it into the pair. -/
def FoldsByte (i : Instr) (f : Accum → Byte → Accum) : Prop :=
  ∀ {s : State} {a : Accum} {q : Sequencer}, s.eng.acc = some a → s.eng.seq = some q →
    s.platform.answer q.ptr = .answers →
    exec i s = .next (s.afterByte (s.drawsAfter q.ptr s.draws) (f a (s.readValue q.ptr s.draws)) q)

theorem Undisturbed.step_byte {s : State} {q : Sequencer} (h : Undisturbed s q) {i : Instr}
    {f : Accum → Byte → Accum} (hi : i.isCommand = false) (hf : FoldsByte i f) (a : Accum) (blk : Option Block)
    {k j : Nat} (hk : k < q.n.toNat) (hj : q.sched[j]? = some (encode i)) :
    step (s.during q (some a) blk k j) =
      .next (s.during q (some (f a (s.mem.read (byteAddr q.base k).toNat))) blk (k + 1) (j + 1)) := by
  obtain ⟨hvalue, hdraws⟩ := State.readValue_settled (d := s.draws) (h.isDraw (some a) blk k j hk)
  have hstep := h.step_issues (some a) blk k hi hj
  rw [hf rfl rfl (h.readable k hk), hdraws, hvalue] at hstep
  exact hstep.trans (congrArg _ (s.during_consume q _ blk k j 1))

/-- A run of one micro-op that folds bytes takes the bytes from PTR on into the pair. -/
theorem Undisturbed.run_bytes {s : State} {q : Sequencer} (h : Undisturbed s q) {i : Instr}
    {f : Accum → Byte → Accum} (hi : i.isCommand = false) (hf : FoldsByte i f) (m : Nat) (a : Accum)
    (blk : Option Block) {k j : Nat} (hk : k + m ≤ q.n.toNat) (hs : q.Schedules j (List.replicate m i)) :
    Host.Core.run Sys2Proof.core m (s.during q (some a) blk k j) =
      .next (s.during q (some ((s.mem.bytes (byteAddr q.base k) m).foldl f a)) blk (k + m) (j + m)) := by
  induction m generalizing a k j with
  | zero => rfl
  | succ m ih =>
    rw [List.replicate_succ] at hs
    have hstep := h.step_byte hi hf a blk (k := k) (by omega) hs.head
    rw [run_next m hstep, ih _ (by omega) hs.tail, Nat.add_comm m 1, Memory.bytes_add, Memory.bytes_one, byteAddr_add,
      List.foldl_append, Nat.add_assoc, Nat.add_assoc]
    rfl

/-- The reads of a chunk bring its bytes and draw nothing. -/
theorem Undisturbed.memReads {s : State} {q : Sequencer} (h : Undisturbed s q) (acc : Option Accum)
    (blk : Option Block) (j : Nat) {k w : Nat} (hk : k + w ≤ q.n.toNat) :
    (s.during q acc blk k j).memReads w (byteAddr q.base k) s.draws =
      .got (s.mem.bytes (byteAddr q.base k) w) s.draws := by
  have hsettled (i : Nat) (hi : i < w) :
      (s.during q acc blk k j).isDraw (byteAddr (byteAddr q.base k) i) = false := by
    rw [byteAddr_add]; exact h.isDraw _ _ _ _ (by omega)
  obtain ⟨bytes, d, hr, hlength, hbyte, hdraws⟩ := (s.during q acc blk k j).memReads_got w (byteAddr q.base k) s.draws
    fun i hi => by rw [byteAddr_add]; exact h.readable _ (by omega)
  obtain rfl := hdraws hsettled
  have hbytes : bytes = s.mem.bytes (byteAddr q.base k) w := List.ext_getElem? fun i => by
    by_cases hi : i < w
    · rw [hbyte i hi (hsettled i hi)]; simp [Memory.bytes, hi]
    · rw [List.getElem?_eq_none (by omega), List.getElem?_eq_none (by simp; omega)]
  rw [hr, hbytes]

theorem Undisturbed.step_chunk {s : State} {q : Sequencer} (h : Undisturbed s q)
    (hv : s.eng.build.hasVector = true) (acc : Option Accum) {v : Block} {k j : Nat}
    (hk : k + s.eng.build.w ≤ q.n.toNat) (hroom : v.blen.toNat + s.eng.build.w ≤ 5552)
    (hj : q.sched[j]? = some (encode .vchunk)) :
    step (s.during q acc (some v) k j) =
      .next (s.during q acc (some (v.addChunk s.eng.build.w (s.mem.bytes (byteAddr q.base k) s.eng.build.w)))
        (k + s.eng.build.w) (j + 1)) := by
  have hstep := h.step_issues acc (some v) k rfl hj
  rw [exec_vchunk_got (s := s.during q acc (some v) k j) hv rfl rfl (h.memReads acc (some v) j hk) hroom] at hstep
  exact hstep.trans (congrArg _ (s.during_consume q acc _ k j _))

/-- A run of VCHUNKs takes the chunks from PTR on into a super-block that was opened there. -/
theorem Undisturbed.run_chunks {s : State} {q : Sequencer} (h : Undisturbed s q) (hw : 1 ≤ s.eng.build.w)
    (hv : s.eng.build.hasVector = true) (acc : Option Accum) (s1 : Word) {k j : Nat} (c : Nat)
    (hn : c * s.eng.build.w ≤ 5552) (hk : k + c * s.eng.build.w ≤ q.n.toNat)
    (hs : q.Schedules j (List.replicate c .vchunk)) :
    Host.Core.run Sys2Proof.core c (s.during q acc (some (Block.opened s.eng.build.w s1)) k j) =
      .next (s.during q acc
        (some (superBlock s.eng.build.w s1 (s.mem.chunks (byteAddr q.base k) s.eng.build.w c)))
        (k + c * s.eng.build.w) (j + c)) := by
  induction c with
  | zero => simp [Memory.chunks, run_zero]
  | succ c ih =>
    rw [Nat.succ_mul] at hn hk
    rw [List.replicate_succ'] at hs
    obtain ⟨hbefore, hlast⟩ := Sequencer.schedules_append hs
    rw [List.length_replicate] at hlast
    have hblen := superBlock_chunks_blen s.mem (byteAddr q.base k) s1 hw (c := c) (by omega)
    have hstep := h.step_chunk hv acc (k := k + c * s.eng.build.w) (by omega) (hblen ▸ hn) hlast.head
    rw [run_add c 1 (ih (by omega) (by omega) hbefore), run_next 0 hstep, run_zero, Memory.chunks_succ, byteAddr_add,
      superBlock, superBlock, List.foldl_concat, Nat.succ_mul, Nat.add_assoc, Nat.add_assoc]

/-! ### The pair that the parts of a schedule reach (44_sequencer.md R210) -/

/-- From any reduced pair the micro-ops `ops` reach what SSTEPs over the next `m` bytes reach. -/
def ActsAsSsteps (s : State) (q : Sequencer) (ops : List Instr) (m : Nat) : Prop :=
  ∀ (a : Accum) (blk : Option Block) (k j : Nat), a.isReduced = true → k + m ≤ q.n.toNat → q.Schedules j ops →
    ∃ blk', Host.Core.run Sys2Proof.core ops.length (s.during q (some a) blk k j) =
      .next (s.during q (some ((s.mem.bytes (byteAddr q.base k) m).foldl Accum.stepReduced a)) blk' (k + m)
        (j + ops.length))

theorem ActsAsSsteps.append {s : State} {q : Sequencer} {xs ys : List Instr} {m n : Nat}
    (hx : ActsAsSsteps s q xs m) (hy : ActsAsSsteps s q ys n) : ActsAsSsteps s q (xs ++ ys) (m + n) := by
  intro a blk k j ha hk hs
  obtain ⟨hsx, hsy⟩ := Sequencer.schedules_append hs
  obtain ⟨blk1, h1⟩ := hx a blk k j ha (by omega) hsx
  obtain ⟨blk2, h2⟩ := hy _ blk1 (k + m) (j + xs.length) (foldl_stepReduced_isReduced ha _) (by omega) hsy
  refine ⟨blk2, ?_⟩
  rw [List.length_append, run_add _ _ h1, h2, Memory.bytes_add, byteAddr_add, List.foldl_append, Nat.add_assoc,
    Nat.add_assoc]

theorem Undisturbed.actsAsSsteps_ssteps {s : State} {q : Sequencer} (h : Undisturbed s q) (m : Nat) :
    ActsAsSsteps s q (List.replicate m .sstep) m := by
  intro a blk k j _ hk hs
  rw [List.length_replicate]
  exact ⟨blk, h.run_bytes rfl exec_sstep_answers m a blk hk hs⟩

/-- RSTEPs reach the exact sums, and REDUCE their remainders (42_batched.md R146). -/
theorem Undisturbed.actsAsSsteps_batchedSegment {s : State} {q : Sequencer} (h : Undisturbed s q) {m : Nat}
    (hm : m ≤ 5552) : ActsAsSsteps s q (batchedSegment m) m := by
  intro a blk k j ha hk hs
  obtain ⟨hbefore, hlast⟩ := Sequencer.schedules_append hs
  rw [List.length_replicate] at hlast
  obtain ⟨h1, h2⟩ := a.isReduced_iff.1 ha
  have hrun := h.run_bytes rfl exec_rstep_answers m a blk hk hbefore
  have hstep := h.step_issues (some ((s.mem.bytes (byteAddr q.base k) m).foldl Accum.stepRaw a)) blk (k + m) rfl
    hlast.head
  have hequal := batchedSegmentEqualsScalar (s.mem.bytes (byteAddr q.base k) m) a (by rwa [Memory.bytes_length]) h1 h2
  rw [exec_reduce rfl, hequal] at hstep
  have hlength : (batchedSegment m).length = m + 1 := by simp [batchedSegment]
  exact ⟨blk, by rw [hlength, run_add m 1 hrun, run_next 0 hstep]; rfl⟩

/-- A super-block reaches the closed form of its bytes (43_vector.md R173). -/
theorem Undisturbed.actsAsSsteps_superBlockOps {s : State} {q : Sequencer} (h : Undisturbed s q)
    (hw : 1 ≤ s.eng.build.w) (hv : s.eng.build.hasVector = true) {c : Nat} (hc : c * s.eng.build.w ≤ 5552) :
    ActsAsSsteps s q (superBlockOps c) (c * s.eng.build.w) := by
  intro a blk k j ha hk hs
  obtain ⟨hchunks, hlast⟩ := Sequencer.schedules_append hs.tail
  rw [List.length_replicate] at hlast
  obtain ⟨hmay, hrecon⟩ := superBlock_chunks_reconciled s.mem (byteAddr q.base k) ha hw hc
  have hbegin := h.step_issues (some a) blk k rfl hs.head
  rw [exec_vbegin_reduced (s := s.during q (some a) blk k j) hv rfl ha] at hbegin
  have hrun := h.run_chunks hw hv (some a) a.s1 c hc hk hchunks
  have hend := h.step_issues (some a) (some (superBlock s.eng.build.w a.s1
    (s.mem.chunks (byteAddr q.base k) s.eng.build.w c))) (k + c * s.eng.build.w) rfl hlast.head
  rw [exec_vrecon_reconciled (s := s.during q _ _ _ _) hv rfl rfl hmay, hrecon] at hend
  have hlength : (superBlockOps c).length = c + 1 + 1 := by simp [superBlockOps]
  refine ⟨some (superBlock s.eng.build.w a.s1 (s.mem.chunks (byteAddr q.base k) s.eng.build.w c)), ?_⟩
  rw [hlength, run_next (c + 1) hbegin]
  refine (run_add c 1 hrun).trans ((run_next 0 hend).trans ?_)
  rw [run_zero, Nat.add_assoc j, Nat.add_comm c 1]
  rfl

/-- All between SEED and PACK. -/
theorem Undisturbed.actsAsSsteps_bodyOps {s : State} {q : Sequencer} (h : Undisturbed s q)
    (hl : s.eng.build.legal = true) {t : Tier} (ht : t = .vector → s.eng.build.hasVector = true) (n : Nat) :
    ActsAsSsteps s q (bodyOps s.eng.build t n) n := by
  have hw : 1 ≤ s.eng.build.w := by simp [Build.legal] at hl; exact hl.1
  exact bodyOps_induction ActsAsSsteps.append h.actsAsSsteps_ssteps (fun _ _ => h.actsAsSsteps_batchedSegment)
    (fun hvec _ => h.actsAsSsteps_superBlockOps hw (ht hvec)) n

/-- A whole undisturbed operation publishes Adler32 of its buffer. -/
theorem Undisturbed.run_schedule {s : State} {q : Sequencer} (h : Undisturbed s q) (hl : s.eng.build.legal = true)
    (hsched : q.sched = schedule s.eng.build q.eff q.n.toNat)
    (ht : q.eff = .vector → s.eng.build.hasVector = true) (acc : Option Accum) (blk : Option Block) :
    Host.Core.run Sys2Proof.core q.sched.length (s.during q acc blk 0 0) = .next { s with eng := { s.eng.discard with
      result := adler32 (s.mem.bytes q.base q.n.toNat)
      status := Status.packed } } := by
  have hall : q.Schedules 0 (.seed :: (bodyOps s.eng.build q.eff q.n.toNat ++ [.pack])) :=
    ⟨[], by simp [hsched, schedule_eq]⟩
  obtain ⟨hbody, hpack⟩ := Sequencer.schedules_append hall.tail
  have hseed := h.step_issues acc blk 0 rfl hall.head
  rw [exec_seed] at hseed
  obtain ⟨blk', hrun⟩ := h.actsAsSsteps_bodyOps hl ht q.n.toNat Accum.seed blk 0 1 Accum.seed_isReduced (by omega) hbody
  have hlast := h.step_issues (some ((s.mem.bytes (byteAddr q.base 0) q.n.toNat).foldl Accum.stepReduced Accum.seed))
    blk' (0 + q.n.toNat) rfl hpack.head
  rw [exec_pack_settled rfl (foldl_stepReduced_isReduced Accum.seed_isReduced _)
    ((Engine.isRaced_some rfl).trans (by simp [h.unraced])), byteAddr_zero, ← adler32_eq_packed] at hlast
  have hlength : q.sched.length = (bodyOps s.eng.build q.eff q.n.toNat).length + 1 + 1 := by
    rw [hsched, schedule_length]
  rw [hlength, run_next _ hseed]
  refine (run_add _ 1 hrun).trans ?_
  rw [byteAddr_zero]
  exact run_next 0 hlast

end Sys2Proof.Machine
end

section
/-! PROOFS. The statements of 44_sequencer.md. -/

namespace Sys2Proof.Machine

/-- Settles O13: a START that no check rejects is accepted (`exec_command_accepted`), and `selectTier` is R197's. -/
theorem acceptedStartBeginsAnOperation : Obligations.AcceptedStartBeginsAnOperation := by
  intro i engine s hi hidle hspace
  have hcode : i.isCommand = true ∧ engine = engineCode i ∧ (engine = 0b10 → s.eng.build.hasVector = true) := by
    obtain ⟨rfl, x, rfl⟩ | ⟨rfl, x, rfl⟩ | ⟨rfl, ⟨x, rfl⟩, hv⟩ | ⟨rfl, x, rfl⟩ := hi
    · exact ⟨rfl, rfl, nofun⟩
    · exact ⟨rfl, rfl, nofun⟩
    · exact ⟨rfl, rfl, fun _ => hv⟩
    · exact ⟨rfl, rfl, nofun⟩
  obtain ⟨hc, rfl, hv⟩ := hcode
  have hfits : s.eng.length.toNat = 0 ∨ s.eng.srcAddr.toNat + s.eng.length.toNat ≤ 2 ^ 32 :=
    hspace.imp_left fun h => by rw [h]; rfl
  refine ⟨selectTier s.eng.build (engineCode i) s.eng.length.toNat, fun h => ?_, fun h => ?_, fun h => ?_,
    fun h => ?_, exec_command_accepted hc hidle hv hfits⟩ <;> rw [h]
  · rfl
  · rfl
  · rfl
  · exact selectTier_auto _ _

/-- Settles O29: the Engine's turn issues the micro-op at UPC, and while idle it does nothing. -/
theorem stepRunsTheScheduledMicroOp : Obligations.StepRunsTheScheduledMicroOp := by
  refine ⟨fun s q w i hb hq hw hi => ⟨fun ht => step_issue ht hb hq hw hi, fun rest ht => ?_⟩, fun s rest hb ht => ?_⟩
  · rw [step_turn ht]
    exact engineTurn_issue (s := { s with turns := rest }) hb hq hw hi
  · rw [step_turn ht]
    exact engineTurn_idle (s := { s with turns := rest }) hb

/-- Settles O30: the Host's move is its next line, and a command's word written to CTRL is the command. -/
theorem stepRunsTheCommandWritten : Obligations.StepRunsTheCommandWritten := by
  have line (s : State) (l : HostLine) (lines : List HostLine) (hl : s.host = l :: lines) :
      (∀ rest, s.turns = .host :: rest → step s = State.hostLine { s with turns := rest, host := lines } l) ∧
      (s.turns = [] → s.eng.status.busy = false → step s = State.hostLine { s with host := lines } l) := by
    refine ⟨fun rest ht => ?_, fun ht hb => ?_⟩
    · rw [step_turn ht]
      exact hostTurn_cons (s := { s with turns := rest }) hl
    · rw [step_default ht, defaultTurn_host hb hl, hostTurn_cons hl]
  refine ⟨fun s data i lines hl hd => ?_, line, fun s rest hl ht => ?_⟩
  · obtain ⟨hturn, hdefault⟩ := line s _ lines hl
    exact ⟨fun rest ht => (hturn rest ht).trans
        (hostLine_ctrl_command (s := { s with turns := rest, host := lines }) hd),
      fun ht hb => (hdefault ht hb).trans (hostLine_ctrl_command (s := { s with host := lines }) hd)⟩
  · rw [step_turn ht]
    simp only [State.takeTurn, State.hostTurn, hl]

/-- Settles O38: no register of the map is one of the datapath or the sequencer. -/
theorem hostCannotSeeTheDatapath : Obligations.HostCannotSeeTheDatapath := by
  intro e acc blk seq off data
  constructor
  · unfold Engine.readReg
    split <;> rfl
  · unfold Engine.writeReg
    split <;> rfl

/-- Settles O39: an access of the running block writes at most SRC_ADDR and LENGTH (`hostLine_busy`). -/
theorem hostAccessesDoNotDisturbARun : Obligations.HostAccessesDoNotDisturbARun := by
  intro s t line addr hb hown hl h
  obtain ⟨src, len, host, last, rfl⟩ := hostLine_busy hb hown hl h
  exact ⟨rfl, rfl, rfl, rfl, rfl, rfl, rfl, rfl, rfl, rfl, rfl, rfl⟩

/-- Settles O43: each clause is a case of `scheduleLength`. -/
theorem scheduleLengths : Obligations.ScheduleLengths := by
  intro b n
  simp only [schedule_length_eq]
  exact ⟨rfl, fun h => if_pos h, fun h => if_neg (Nat.not_lt.2 h), fun h => if_pos h,
    fun h => if_neg (Nat.not_lt.2 h)⟩

/-- Settles O44: SEED and PACK take no byte, and what stands between them takes the n bytes (`bodyOps_bytesTaken`). -/
theorem scheduleConsumesTheBuffer : Obligations.ScheduleConsumesTheBuffer :=
  fun b t n _ => bytesConsumed_schedule b t n

/-- Settles O45: `bodyOps` stands between SEED and PACK. -/
theorem scheduleStartsWithSeedEndsWithPack : Obligations.ScheduleStartsWithSeedEndsWithPack :=
  fun b t n => ⟨bodyOps b t n, schedule_eq b t n, bodyOps_inner b t n⟩

/-- Settles O46: short inputs by the definition of `microOps`; without the tier START accepts no ENGINE that selects it,
and the other tiers' schedules hold no vector micro-op. -/
theorem shortInputsAndTheAbsentTier : Obligations.ShortInputsAndTheAbsentTier := by
  refine ⟨fun b n h => ?_, fun b n h => ?_, fun i s t q hno hidle hc h hb hq => ?_⟩
  · rw [schedule, microOps_batched, if_pos h]; rfl
  · rw [schedule, microOps_vector, if_pos h]; rfl
  · obtain ⟨hv, rfl⟩ := exec_command_busy hc hidle h hb
    cases hq
    have hne : selectTier s.eng.build (engineCode i) s.eng.length.toNat ≠ .vector := fun hsel => by
      have hyes : s.eng.build.hasVector = true := (selectTier_eq_vector hsel).elim hv id
      rw [hno] at hyes
      cases hyes
    exact ⟨hne, vectorWord_not_mem_schedule hne _ _ (i := .vbegin) rfl,
      vectorWord_not_mem_schedule hne _ _ (i := .vchunk) rfl, vectorWord_not_mem_schedule hne _ _ (i := .vrecon) rfl⟩

/-- Settles O54: every turn is `Safe` (`step_safe`), because a micro-op that what is known lets run leaves what lets the
rest run. -/
theorem stepKeepsTheInvariant : Obligations.StepKeepsTheInvariant := by
  intro s t h hstep
  have hsafe := step_safe h
  rwa [hstep] at hsafe

/-- Settles O55: `Safe` holds of no fault (`step_safe`). -/
theorem noStepFaultsUnderTheInvariant : Obligations.NoStepFaultsUnderTheInvariant := by
  intro s f h hstep
  have hsafe := step_safe h
  rwa [hstep] at hsafe

/-- Settles O56: the operation that START begins is undisturbed, and its schedule reaches what SSTEPs over the buffer
reach (`Undisturbed.run_schedule`). -/
theorem operationComputesAdler32 : Obligations.OperationComputesAdler32 := by
  intro i s s1 h hread hvis
  obtain ⟨hv, rfl⟩ := exec_command_busy h.command h.idle h.started h.busy
  set e : Engine := { s.eng with ctrlEngine := engineCode i }
  have hrun := Undisturbed.run_schedule (s := { s with eng := e.accept }) (q := e.newSequencer)
    ⟨h.alone, rfl, rfl, hread, hvis⟩ h.legal rfl (fun hsel => (selectTier_eq_vector hsel).elim hv id) s.eng.acc
    s.eng.blk
  rw [State.during, byteAddr_zero, Engine.newSequencer_sched, schedule_length_eq] at hrun
  exact hrun

/-- Settles O60: each step completes a micro-op, ends the operation, or would need a read that does not complete
(`run_ends`). -/
theorem operationTerminates : Obligations.OperationTerminates :=
  fun _ _ h ht hb hq hread => run_ends h ht hb hq hread le_rfl

/-- Settles O58: both operations publish Adler32 of the same bytes (`operationComputesAdler32`). -/
theorem resultDependsOnTheBytesAlone : Obligations.ResultDependsOnTheBytesAlone := by
  intro i j s s1 r r1 hs hr hsread hsvis hrread hrvis hbytes
  exact ⟨_, _, _, _, operationComputesAdler32 i s s1 hs hsread hsvis, operationComputesAdler32 j r r1 hr hrread hrvis,
    rfl, rfl, congrArg adler32 hbytes⟩

end Sys2Proof.Machine
end

section
/-! PROOFS. What the exception family's statements rest on: START where it rejects, an Engine's turn among others,
and a run towards the lowest address that is refused. -/

namespace Sys2Proof.Machine

/-! ### START where it rejects (60_exceptions.md R233, R234, R239) -/

/-- The check for the tier comes before the one for the range. -/
theorem exec_command_absentTier {i : Instr} {s : State} (hc : i.isCommand = true) (hidle : s.eng.status.busy = false)
    (hg : engineCode i = 0b10) (hv : s.eng.build.hasVector = false) :
    exec i s = .next { s with eng := Engine.reject { s.eng with ctrlEngine := engineCode i } .illegalEngine } := by
  rw [exec_command s hc, State.startCommand_idle _ hidle, Engine.start, if_pos ⟨hg, hv⟩]

theorem exec_command_outOfSpace {i : Instr} {s : State} (hc : i.isCommand = true) (hidle : s.eng.status.busy = false)
    (hv : engineCode i = 0b10 → s.eng.build.hasVector = true) (hpos : 0 < s.eng.length.toNat)
    (hover : 2 ^ 32 < s.eng.srcAddr.toNat + s.eng.length.toNat) :
    exec i s = .next { s with eng := Engine.reject { s.eng with ctrlEngine := engineCode i } .rangeError } := by
  have hbuilt : ¬ (engineCode i = 0b10 ∧ s.eng.build.hasVector = false) := fun ⟨hg, hno⟩ => by
    rw [hv hg] at hno; cases hno
  rw [exec_command s hc, State.startCommand_idle _ hidle, Engine.start, if_neg hbuilt, if_pos ⟨hpos, hover⟩]

/-- An accepted command begins an operation whose sequencer meets its invariant. -/
theorem Accepted.begins {i : Instr} {s s1 : State} (h : Accepted i s s1) :
    s1 = { s with eng := Engine.accept { s.eng with ctrlEngine := engineCode i } } ∧
      (Engine.newSequencer { s.eng with ctrlEngine := engineCode i }).Inv s.eng.build := by
  obtain ⟨hv, hs1⟩ := exec_command_busy h.command h.idle h.started h.busy
  refine ⟨hs1, Engine.newSequencer_inv (e := { s.eng with ctrlEngine := engineCode i }) hv ?_⟩
  by_contra hspace
  obtain ⟨hpos, hover⟩ := not_or.1 hspace
  have hreject := exec_command_outOfSpace h.command h.idle hv (Nat.pos_of_ne_zero hpos) (Nat.lt_of_not_le hover)
  have hbusy := h.busy
  rw [Host.Outcome.next.inj (h.started.symm.trans hreject)] at hbusy
  cases hbusy

/-! ### An Engine's turn among other engines (60_exceptions.md R246) -/

/-- The machine with `o` as the engines not in focus. -/
abbrev State.among (s : State) (o : List Engine) : State := { s with others := o }

/-- The same answer with `o` as the engines not in focus. -/
def answerAmong (o : List Engine) : Result → Result
  | .next t => .next (t.among o)
  | .fault f => .fault f
  | .refused r => .refused r

section
variable {s : State} {o : List Engine}

theorem withAccum_among {k k' : Accum → Result} (h : ∀ a, k' a = answerAmong o (k a)) :
    withAccum (s.among o) k' = answerAmong o (withAccum s k) := by
  unfold withAccum; cases s.eng.acc with
  | none => rfl
  | some a => exact h a

theorem withBlock_among {k k' : Block → Result} (h : ∀ v, k' v = answerAmong o (k v)) :
    withBlock (s.among o) k' = answerAmong o (withBlock s k) := by
  unfold withBlock; cases s.eng.blk with
  | none => rfl
  | some v => exact h v

theorem withSequencer_among {k k' : Sequencer → Result} (h : ∀ q, k' q = answerAmong o (k q)) :
    withSequencer (s.among o) k' = answerAmong o (withSequencer s k) := by
  unfold withSequencer; cases s.eng.seq with
  | none => rfl
  | some q => exact h q

theorem withVectorTier_among {r r' : Result} (h : r' = answerAmong o r) :
    withVectorTier (s.among o) r' = answerAmong o (withVectorTier s r) := by
  unfold withVectorTier; split
  · exact h
  · rfl

theorem asserting_among {p : Bool} {r r' : Result} (h : r' = answerAmong o r) :
    asserting p r' = answerAmong o (asserting p r) := by
  cases p with
  | true => exact h
  | false => rfl

theorem withReply_among {α : Type} {k k' : α → State → Result} (r : Reply α)
    (h : ∀ v d, k' v (State.among { s with draws := d } o) = answerAmong o (k v { s with draws := d })) :
    withReply (s.among o) r k' = answerAmong o (withReply s r k) := by
  cases r with
  | got v d => exact h v d
  | refused a => rfl
  | silent => rfl
  | sideEffects => rfl

theorem State.memRead_among (a : Word) (d : Nat) : (s.among o).memRead a d = s.memRead a d := rfl

theorem State.memReads_among (n : Nat) (a : Word) (d : Nat) : (s.among o).memReads n a d = s.memReads n a d := by
  induction n generalizing a d with
  | zero => rfl
  | succ n ih => simp only [State.memReads, State.memRead_among, ih]

theorem State.startCommand_among (engine : BitVec 2) :
    (s.among o).startCommand engine = (s.startCommand engine).among o := by
  unfold State.startCommand; split <;> rfl

/-- An instruction answers the same whatever the other engines are. -/
theorem exec_among (i : Instr) : exec i (s.among o) = answerAmong o (exec i s) := by
  cases i with
  | seed => rfl
  | sstep | rstep =>
    exact withAccum_among fun a => withSequencer_among fun q => withReply_among _ fun b d => rfl
  | reduce => exact withAccum_among fun a => rfl
  | vbegin => exact withVectorTier_among (withAccum_among fun a => asserting_among rfl)
  | vchunk =>
    refine withVectorTier_among (withBlock_among fun v => withSequencer_among fun q => ?_)
    rw [State.memReads_among]
    exact withReply_among _ fun bytes d => asserting_among rfl
  | vrecon => exact withVectorTier_among (withAccum_among fun a => withBlock_among fun v => asserting_among rfl)
  | pack => exact withAccum_among fun a => asserting_among rfl
  | startScalar x | startBatched x | startVector x | startAuto x =>
    rw [exec_command _ rfl, exec_command _ rfl, State.startCommand_among]; rfl

theorem engineTurn_among : (s.among o).engineTurn = answerAmong o s.engineTurn := by
  unfold State.engineTurn
  split
  · refine withSequencer_among fun q => ?_
    split
    · rfl
    · split
      · exact exec_among _
      · rfl
  · rfl

end

theorem engineTurn_others {s t : State} (h : s.engineTurn = .next t) : t.others = s.others := by
  obtain ⟨-, rfl⟩ | ⟨-, q, w, i, -, -, -, h⟩ := engineTurn_eq_next h
  · rfl
  · obtain ⟨e, d, rfl⟩ := exec_frame h
    rfl

/-! ### What a micro-op that can run needs of the datapath -/

theorem View.acc_of_after_byteReader {b : Build} {v v' : View} {i : Instr} (hi : i = .sstep ∨ i = .rstep)
    (h : v.after b i = some v') : v.acc ≠ .nothing := by
  obtain rfl | rfl := hi <;> exact (Option.ite_none_left_eq_some.1 h).1

theorem View.room_of_after_vchunk {b : Build} {v v' : View} (h : v.after b .vchunk = some v') :
    b.hasVector = true ∧ ∃ l, v.blen = some l ∧ l + b.w ≤ 5552 := by
  rw [View.after] at h
  split at h
  · rename_i l hl
    obtain ⟨⟨hroom, hv⟩, -⟩ := Option.ite_none_right_eq_some.1 h
    exact ⟨hv, l, hl, hroom⟩
  · cases h

/-! ### A micro-op by the bytes it takes (60_exceptions.md R231, R240) -/

section
variable {i : Instr} {s : State} {q : Sequencer} {v v' : View}

/-- Where its j-th byte is the first that does not answer and is refused, a micro-op raises ReadFault there. -/
theorem exec_refused {j : Nat} (hq : s.eng.seq = some q) (hd : v.Describes s.eng)
    (hafter : v.after s.eng.build i = some v') (hj : j < bytesTaken s.eng.build.w i)
    (hbefore : ∀ l, l < j → s.platform.answer (byteAddr q.ptr l) = .answers)
    (h : s.platform.answer (byteAddr q.ptr j) = .refused) :
    exec i s = .next (s.raise (.readFault (byteAddr q.ptr j))) := by
  cases i with
  | sstep | rstep =>
    obtain ⟨a, ha⟩ := hd.present (View.acc_of_after_byteReader (by simp) hafter)
    obtain rfl : j = 0 := Nat.lt_one_iff.1 hj
    rw [byteAddr_zero] at h ⊢
    exact exec_byteReader_refused (by simp) ha hq h
  | vchunk =>
    obtain ⟨hv, l, hl, -⟩ := View.room_of_after_vchunk hafter
    obtain ⟨k, hk, -⟩ := hd.block l hl
    exact exec_vchunk_refused hv hk hq hj hbefore h
  | seed | reduce | vbegin | vrecon | pack => exact absurd hj (Nat.not_lt_zero j)
  | startScalar x | startBatched x | startVector x | startAuto x => exact absurd hj (Nat.not_lt_zero j)

/-- Where all its bytes answer, a micro-op moves PTR and UPC on. -/
theorem exec_moves (hq : s.eng.seq = some q) (hd : v.Describes s.eng) (hafter : v.after s.eng.build i = some v')
    (hread : ∀ j, j < bytesTaken s.eng.build.w i → s.platform.answer (byteAddr q.ptr j) = .answers) :
    ∃ t, exec i s = .next t ∧ t.eng.seq = some (q.consume (bytesTaken s.eng.build.w i)).advance := by
  have completed {e : Engine} (he : e.seq = s.eng.seq) :
      (s.complete e).eng.seq = some (q.consume 0).advance := by
    rw [Sequencer.consume_zero, State.complete, he, hq]; rfl
  have hptr (hone : bytesTaken s.eng.build.w i = 1) : s.platform.answer q.ptr = .answers := by
    simpa only [byteAddr_zero] using hread 0 (by omega)
  cases i with
  | seed => exact ⟨_, exec_seed s, completed rfl⟩
  | sstep =>
    obtain ⟨a, ha⟩ := hd.present (View.acc_of_after_byteReader (.inl rfl) hafter)
    exact ⟨_, exec_sstep_answers ha hq (hptr rfl), rfl⟩
  | rstep =>
    obtain ⟨a, ha⟩ := hd.present (View.acc_of_after_byteReader (.inr rfl) hafter)
    exact ⟨_, exec_rstep_answers ha hq (hptr rfl), rfl⟩
  | reduce =>
    obtain ⟨a, ha⟩ := hd.present (Option.ite_none_left_eq_some.1 hafter).1
    exact ⟨_, exec_reduce ha, completed rfl⟩
  | vbegin =>
    obtain ⟨⟨hacc, hv⟩, -⟩ := Option.ite_none_right_eq_some.1 hafter
    obtain ⟨a, ha, hr⟩ := hd.reduced hacc
    exact ⟨_, exec_vbegin_reduced hv ha hr, completed rfl⟩
  | vchunk =>
    obtain ⟨hv, l, hl, hroom⟩ := View.room_of_after_vchunk hafter
    obtain ⟨k, hk, rfl, -⟩ := hd.block l hl
    obtain ⟨bytes, d, hr, -⟩ := s.memReads_got s.eng.build.w q.ptr s.draws hread
    exact ⟨_, exec_vchunk_got hv hk hq hr hroom, rfl⟩
  | vrecon =>
    obtain ⟨⟨hacc, hblen, hv⟩, -⟩ := Option.ite_none_right_eq_some.1 hafter
    obtain ⟨a, ha, hr⟩ := hd.reduced hacc
    obtain ⟨l, hl⟩ := Option.ne_none_iff_exists'.1 hblen
    obtain ⟨k, hk, rfl, hln, hs1e, -⟩ := hd.block l hl
    exact ⟨_, exec_vrecon_reconciled hv ha hk ((k.mayReconcile_iff _).2 ⟨hln, hs1e, (a.isReduced_iff.1 hr).2⟩),
      completed rfl⟩
  | pack | startScalar x | startBatched x | startVector x | startAuto x => cases hafter

/-- Of the answers a micro-op can give (`exec_answer`), the one where all its bytes answer. -/
theorem exec_completes (hq : s.eng.seq = some q) (hd : v.Describes s.eng) (hafter : v.after s.eng.build i = some v')
    (hread : ∀ j, j < bytesTaken s.eng.build.w i → s.platform.answer (byteAddr q.ptr j) = .answers) :
    ∃ t, exec i s = .next t ∧ Completes i q v' s t := by
  obtain ⟨t, ht, hseq⟩ := exec_moves hq hd hafter hread
  have hanswer := exec_answer hq hd hafter
  rw [ht] at hanswer
  cases hanswer with
  | completes h => exact ⟨t, ht, h⟩
  | refused _ => cases hseq
  | pending _ =>
    have hupc := congrArg Sequencer.upc (Option.some.inj (hq.symm.trans hseq))
    exact absurd hupc (Nat.ne_of_lt (Nat.lt_succ_self _))

end

/-! ### A run towards a refused address (60_exceptions.md R236, R240) -/

theorem bytesConsumed_take_succ {w j : Nat} {sched : List Word} {x : Word} {i : Instr} (hx : sched[j]? = some x)
    (hi : decodeUop x = .ok i) :
    bytesConsumed w (sched.take (j + 1)) = bytesConsumed w (sched.take j) + bytesTaken w i := by
  rw [List.take_add_one, hx, bytesConsumed_append]
  simp [bytesConsumed, hi]

/-- The engine in focus runs the sequencer `q` over a buffer whose first `k` bytes answer and whose byte at offset `k` is
refused; it has not read that byte yet, and what is left of its schedule can run from what `v` says is known. -/
structure Approaches (s : State) (q : Sequencer) (v : View) (k : Nat) : Prop where
  alone : s.turns = []
  busy : s.eng.status.busy = true
  seq_eq : s.eng.seq = some q
  inv : q.Inv s.eng.build
  describes : v.Describes s.eng
  runs : runnable s.eng.build (q.sched.drop q.upc) v = true
  inside : k < q.n.toNat
  answers : s.Readable q.base k
  refused : s.platform.answer (byteAddr q.base k) = .refused
  unread : bytesConsumed s.eng.build.w (q.sched.take q.upc) ≤ k

section
variable {s : State} {q : Sequencer} {v : View} {k : Nat}

/-- PACK is not next, because the bytes left to read stand before it. -/
theorem Approaches.issues (h : Approaches s q v k) :
    ∃ w i v', q.sched[q.upc]? = some w ∧ decodeUop w = .ok i ∧ v.after s.eng.build i = some v' ∧
      runnable s.eng.build (q.sched.drop (q.upc + 1)) v' = true := by
  have hw := List.getElem?_eq_getElem h.inv.upc_lt
  have hrun := h.runs
  rw [List.drop_eq_getElem_cons h.inv.upc_lt, runnable_cons_iff] at hrun
  obtain ⟨i, hi, ⟨rfl, hlast, -⟩ | ⟨v', hafter, hrest⟩⟩ := hrun
  · have hall : bytesConsumed s.eng.build.w (q.sched.take (q.upc + 1)) = q.n.toNat := by
      rw [List.take_of_length_le (List.drop_eq_nil_iff.1 hlast), h.inv.sched_eq, bytesConsumed_schedule]
    rw [bytesConsumed_take_succ hw hi] at hall
    have hunread := h.unread
    have hinside := h.inside
    simp only [bytesTaken] at hall
    omega
  · exact ⟨_, i, v', hw, hi, hafter, hrest⟩

theorem Approaches.byteAddr_ptr (h : Approaches s q v k) (j : Nat) :
    byteAddr q.ptr j = byteAddr q.base (bytesConsumed s.eng.build.w (q.sched.take q.upc) + j) := by
  rw [h.inv.ptr_eq]; exact byteAddr_add q.base _ j

/-- A completed micro-op that did not take the refused byte leaves the engine on its way to it. -/
theorem Approaches.completes {i : Instr} {w : Word} {v' : View} {t : State} (h : Approaches s q v k)
    (hw : q.sched[q.upc]? = some w) (hi : decodeUop w = .ok i) (hc : Completes i q v' s t)
    (hrun : runnable s.eng.build (q.sched.drop (q.upc + 1)) v' = true)
    (hk : bytesConsumed s.eng.build.w (q.sched.take q.upc) + bytesTaken s.eng.build.w i ≤ k) :
    Approaches t (q.consume (bytesTaken s.eng.build.w i)).advance v' k := by
  have hdescribes := hc.describes
  obtain ⟨acc, blk, d, rfl⟩ := hc.frame
  exact {
    alone := h.alone
    busy := h.busy
    seq_eq := rfl
    inv := h.inv.advance hw hi hrun
    describes := hdescribes
    runs := hrun
    inside := h.inside
    answers := h.answers
    refused := h.refused
    unread := (bytesConsumed_take_succ hw hi).trans_le hk }

/-- The operation ends with ReadFault at the refused byte, in at most as many steps as its schedule has left. -/
theorem Approaches.run_raises {n : Nat} (h : Approaches s q v k) (hn : q.sched.length - q.upc ≤ n) :
    ∃ m d, m ≤ n ∧ Host.Core.run Sys2Proof.core m s =
      .next (State.raise { s with draws := d } (.readFault (byteAddr q.base k))) := by
  induction n generalizing s q v with
  | zero => exact absurd h.inv.upc_lt (by omega)
  | succ n ih =>
    obtain ⟨w, i, v', hw, hi, hafter, hrun⟩ := h.issues
    have hstep := step_issue h.alone h.busy h.seq_eq hw hi
    have hanswers (j : Nat) (hj : bytesConsumed s.eng.build.w (q.sched.take q.upc) + j < k) :
        s.platform.answer (byteAddr q.ptr j) = .answers := by
      rw [h.byteAddr_ptr]; exact h.answers _ hj
    by_cases hk : bytesConsumed s.eng.build.w (q.sched.take q.upc) + bytesTaken s.eng.build.w i ≤ k
    · obtain ⟨t, ht, hc⟩ := exec_completes h.seq_eq h.describes hafter fun j hj => hanswers j (by omega)
      have hnext := h.completes hw hi hc hrun hk
      obtain ⟨acc, blk, d, rfl⟩ := hc.frame
      have hless : q.sched.length - (q.upc + 1) ≤ n := by omega
      obtain ⟨m, d', hm, hend⟩ := ih hnext hless
      exact ⟨m + 1, d', by omega, (run_next m (hstep.trans ht)).trans hend⟩
    · obtain ⟨j, hj⟩ := Nat.exists_eq_add_of_le h.unread
      have hfault : byteAddr q.ptr j = byteAddr q.base k := by rw [h.byteAddr_ptr, ← hj]
      have hraise := exec_refused h.seq_eq h.describes hafter (j := j) (by omega)
        (fun l hl => hanswers l (by omega)) (hfault ▸ h.refused)
      rw [hfault] at hraise
      exact ⟨1, s.draws, by omega, run_next 0 (hstep.trans hraise)⟩

end

/-- An accepted operation over a buffer with a refused byte is on its way to the lowest one. -/
theorem Accepted.approaches {i : Instr} {s s1 : State} {k : Nat} (h : Accepted i s s1) (hk : k < s.eng.length.toNat)
    (hread : s.Readable s.eng.srcAddr k) (href : s.platform.answer (byteAddr s.eng.srcAddr k) = .refused) :
    Approaches s1 (Engine.newSequencer { s.eng with ctrlEngine := engineCode i }) ⟨.nothing, none⟩ k := by
  obtain ⟨rfl, hinv⟩ := h.begins
  exact {
    alone := h.alone
    busy := rfl
    seq_eq := rfl
    inv := hinv
    describes := View.describes_nothing _
    runs := runnable_schedule hinv.tier_built _
    inside := hk
    answers := hread
    refused := href
    unread := Nat.zero_le k }

end Sys2Proof.Machine
end

section
/-! PROOFS. The statements of 60_exceptions.md. -/

namespace Sys2Proof.Machine

/-- Settles O14: the two rejections of START, the tier's check first (`exec_command_absentTier`,
`exec_command_outOfSpace`). -/
theorem rejectedStartReportsItsCode : Obligations.RejectedStartReportsItsCode := by
  refine fun s hidle => ⟨fun x hv => exec_command_absentTier rfl hidle rfl hv, fun i engine hi hpos hover => ?_⟩
  obtain ⟨rfl, x, rfl⟩ | ⟨rfl, x, rfl⟩ | ⟨rfl, ⟨x, rfl⟩, hv⟩ | ⟨rfl, x, rfl⟩ := hi
  · exact exec_command_outOfSpace rfl hidle nofun hpos hover
  · exact exec_command_outOfSpace rfl hidle nofun hpos hover
  · exact exec_command_outOfSpace rfl hidle (fun _ => hv) hpos hover
  · exact exec_command_outOfSpace rfl hidle nofun hpos hover

/-- Settles O16: the end that the three byte readers raise at a refused address is `State.raise`. -/
theorem refusedReadTerminatesTheOperation : Obligations.RefusedReadTerminatesTheOperation := by
  intro s q k i hq href hi
  obtain ⟨hi, rfl, a, ha⟩ | ⟨rfl, hk, hv, ⟨v, hb⟩, hbefore⟩ := hi
  · rw [byteAddr_zero] at href ⊢
    exact exec_byteReader_refused hi ha hq href
  · exact exec_vchunk_refused hv hb hq hk hbefore href

/-- Settles O28: an Engine's turn reads and writes only the engine in focus (`engineTurn_others`,
`engineTurn_among`). -/
theorem instancesShareNoState : Obligations.InstancesShareNoState := by
  intro s o
  have hamong : State.engineTurn { s with others := o } = answerAmong o s.engineTurn := engineTurn_among
  split <;> rename_i hturn <;> rw [hturn] at hamong
  · exact ⟨engineTurn_others hturn, hamong⟩
  · exact hamong
  · exact hamong

/-- Settles O59: START leaves the engine on its way to the lowest refused byte, whatever the tier, and a run that is on
its way raises ReadFault there (`Approaches.run_raises`). -/
theorem faultAddressIsTheLowestRefused : Obligations.FaultAddressIsTheLowestRefused := by
  intro i s s1 k h hk hread href
  obtain ⟨m, d, hm, hrun⟩ := (h.approaches hk hread href).run_raises le_rfl
  obtain ⟨rfl, -⟩ := h.begins
  rw [Engine.newSequencer_sched, schedule_length_eq] at hm
  exact ⟨m, _, hm, hrun, rfl, rfl⟩

end Sys2Proof.Machine
end

section
/-! PROOFS. What the reset family's statements rest on: register writes at any time, and the registers after a reset. -/

namespace Sys2Proof.Machine

/-! ### Register writes at any time (70_reset_and_hazards.md R272, R273) -/

theorem State.setEngine_busy {s : State} (engine : BitVec 2) (h : s.eng.status.busy = true) :
    s.setEngine engine = s := by
  simp [State.setEngine, h]

/-- While BUSY a word written to CTRL is dropped, be it a command or a SETENG. -/
theorem State.writeAt_ctrl_busy {s : State} (data : Word) (h : s.eng.status.busy = true) :
    s.writeAt 0x04 data = .next s := by
  cases hd : decodeCmd data with
  | ok i => rw [writeAt_command hd, exec_of_decodeCmd s hd, State.startCommand_busy _ h]
  | error r => rw [writeAt_setEngine hd, State.setEngine_busy _ h]

theorem State.writeAt_srcAddr (s : State) (data : Word) :
    s.writeAt 0x0C data = .next { s with eng := { s.eng with srcAddr := data } } := rfl

theorem State.writeAt_length (s : State) (data : Word) :
    s.writeAt 0x10 data = .next { s with eng := { s.eng with length := data } } := rfl

@[simp] theorem Engine.readReg_srcAddr (e : Engine) : e.readReg 0x0C = e.srcAddr := rfl

@[simp] theorem Engine.readReg_length (e : Engine) : e.readReg 0x10 = e.length := rfl

/-! ### The registers after a reset (10_state.md R40, 70_reset_and_hazards.md R260, R261) -/

theorem step_reset {s : State} {rest : List Turn} (h : s.turns = .reset :: rest) :
    step s = .next (State.resetTurn { s with turns := rest }) := by
  rw [step_turn h, State.takeTurn]

@[simp] theorem Engine.readReg_id (e : Engine) : e.readReg 0x00 = idWord := rfl

@[simp] theorem Engine.readReg_param (e : Engine) : e.readReg 0x1C = paramWord e.build := rfl

/-- ID and PARAM are constants of the build, which a reset keeps. -/
theorem Engine.readReg_blockReset_constant (e : Engine) {off : Nat} (h : off = 0x00 ∨ off = 0x1C) :
    e.blockReset.readReg off = e.readReg off := by
  obtain rfl | rfl := h
  · rw [Engine.readReg_id, Engine.readReg_id]
  · rw [Engine.readReg_param, Engine.readReg_param, Engine.blockReset_build]

theorem ctrlWord_zero : ctrlWord 0 = 0 := by decide

theorem Status.toWord_reset : Status.reset.toWord = 0 := by decide

/-- Right after a reset every offset but those of ID and PARAM reads 0, on every build. -/
theorem Engine.readReg_afterReset (b : Build) {off : Nat} (hid : off ≠ 0x00) (hparam : off ≠ 0x1C) :
    (Engine.afterReset b).readReg off = 0 := by
  unfold Engine.readReg
  split
  · exact absurd rfl hid
  · exact ctrlWord_zero
  · exact Status.toWord_reset
  · rfl
  · rfl
  · rfl
  · rfl
  · exact absurd rfl hparam
  · rfl

theorem paramWord_default : paramWord Build.default = 0x00010010 := by decide

end Sys2Proof.Machine
end

section
/-! PROOFS. The statements of 70_reset_and_hazards.md. -/

namespace Sys2Proof.Machine

/-- Settles O17: the first read of a byte reader that is still pending leaves the state as it is
(`exec_byteReader_silent`, `exec_vchunk_silent`). -/
theorem silentReadLeavesTheOperationBusy : Obligations.SilentReadLeavesTheOperationBusy := by
  intro s q k i hq hsilent hi
  obtain ⟨hi, rfl, a, ha⟩ | ⟨rfl, hk, hv, ⟨v, hb⟩, hbefore⟩ := hi
  · exact exec_byteReader_silent hi ha hq (byteAddr_zero q.ptr ▸ hsilent)
  · exact exec_vchunk_silent hv hb hq hk hbefore hsilent

/-- Settles O15: a starting command and a SETENG are both dropped while BUSY (`State.writeAt_ctrl_busy`). -/
theorem ctrlWriteWhileBusyIsIgnored : Obligations.CtrlWriteWhileBusyIsIgnored :=
  fun _ data hbusy => State.writeAt_ctrl_busy data hbusy

/-- Settles O34: the write is stored and read back, and `Engine.newSequencer` takes base, PTR and n from it. -/
theorem addressAndLengthWritesAreStored : Obligations.AddressAndLengthWritesAreStored := fun s data =>
  ⟨⟨_, s.writeAt_srcAddr data, rfl, Engine.readReg_srcAddr _, rfl, rfl, rfl, Engine.newSequencer_base _,
      Engine.newSequencer_ptr _⟩,
    ⟨_, s.writeAt_length data, rfl, Engine.readReg_length _, rfl, rfl, rfl, Engine.newSequencer_n _⟩⟩

/-- Settles O41: the reset turn replaces the engine in focus by `Engine.blockReset` and nothing else. -/
theorem blockResetClearsTheInstance : Obligations.BlockResetClearsTheInstance := by
  intro s rest hreset
  refine ⟨_, step_reset hreset, ?_⟩
  rw [State.resetTurn_eng, State.resetTurn_mem, State.resetTurn_others]
  have hid := s.eng.readReg_blockReset_constant (.inl rfl)
  have hparam := s.eng.readReg_blockReset_constant (.inr rfl)
  exact ⟨Engine.blockReset_build _, Engine.blockReset_ctrlEngine _, Engine.blockReset_status _,
    Engine.blockReset_srcAddr _, Engine.blockReset_length _, Engine.blockReset_result _, Engine.blockReset_faultAddr _,
    Engine.blockReset_acc _, Engine.blockReset_blk _, Engine.blockReset_seq _, hid, hparam, rfl, rfl⟩

/-- Settles O42: at `State.reset` the engine in focus is right after its reset on the default build, where all registers
but ID and PARAM read 0 (`Engine.readReg_afterReset`). -/
theorem resetRegistersRead : Obligations.ResetRegistersRead := by
  have hzero {off : Nat} (hid : off ≠ 0x00) (hparam : off ≠ 0x1C) : State.reset.eng.readReg off = 0 :=
    Engine.readReg_afterReset Build.default hid hparam
  exact ⟨Engine.readReg_id _, hzero (by decide) (by decide), hzero (by decide) (by decide),
    hzero (by decide) (by decide), hzero (by decide) (by decide), hzero (by decide) (by decide),
    hzero (by decide) (by decide), paramWord_default, rfl, rfl, rfl⟩

end Sys2Proof.Machine
end
